-- ==== Sys2Proof/Word.lean ====
section
/-!
DEFINITION. Words of LadderDSP-D03: the 32-bit word of S8.23 registers and of the command port, the 16-bit Sample,
the two filter instances' names and the four-element registers (00_scope.md R7, R9, R12).
-/

namespace Sys2Proof

/-- A 32-bit word: an S8.23 register (R82), a command word (R46), RESULT (R29), a timestamp (R27). -/
abbrev Word := BitVec 32

/-- A Sample: a 16-bit two's-complement integer (R7). -/
abbrev Sample := BitVec 16

/-- A 12-bit value: a control channel's published value, a cutoff, a resonance, a mix value (R7, R48). -/
abbrev Value12 := BitVec 12

/-- A filter instance, and the lane of a frame it serves: L is FI[0], R is FI[1] (R16, R33). -/
inductive Chan
  | left
  | right
deriving DecidableEq, Repr, Inhabited

/-- Four like registers, index 0 to 3: control channels (R28) and level meters (R26). -/
structure Quad (α : Type) where
  c0 : α
  c1 : α
  c2 : α
  c3 : α
deriving DecidableEq, Repr, Inhabited

end Sys2Proof
end

