-- ==== Sys2Proof/Machine/Arith.lean ====
section
/-!
DEFINITION. Integer primitives (00_scope.md R10) and the S8.23 multiply (42_ladder_filter.md R83).
S8.23 `+`, `-` and the integer multiples are the word type's own, which wrap modulo 2^32 (R84).
-/

namespace Sys2Proof.Machine

/-- `v >>a k` = floor(v / 2^k) on unbounded integers (R10). -/
def asr (v : Int) (k : Nat) : Int := v >>> k

/-- `wrap32` (R10): the word congruent to `v` modulo 2^32. -/
def wrap32 (v : Int) : Word := BitVec.ofInt 32 v

/-- `truncdiv(a, b)`: the quotient rounded toward zero (R10). -/
def truncdiv (a b : Int) : Int := Int.tdiv a b

/-- `clamp(v, lo, hi)` (R10). -/
def clamp (v lo hi : Int) : Int := min (max v lo) hi

/-- `sat16(v)` (R10), as a Sample. -/
def sat16 (v : Int) : Sample := BitVec.ofInt 16 (clamp v (-32768) 32767)

/-- `abs` of a Sample as an unbounded integer: abs(-32768) = 32768 (R10). -/
def sampleAbs (s : Sample) : Nat := s.toInt.natAbs

/-- `mult(x, y)`: the exact product, floored by 2^23, wrapped to 32 bits (R83; 90_conflicts.md C2, C6). -/
def mult (x y : Word) : Word := wrap32 (asr (x.toInt * y.toInt) 23)

/-- Hard saturation of a word to [-lim, lim] (R94 line 8). -/
def clampWord (x : Word) (lim : Int) : Word := BitVec.ofInt 32 (clamp x.toInt (-lim) lim)

/-- UNITY, S8.23 for 1.0 (R82, R85). -/
def UNITY : Word := 8388608

/-- 0.8·UNITY, truncated (R85). -/
def K08 : Word := 6710886

/-- 5.6·UNITY, truncated (R85). -/
def K56 : Word := 46976204

/-- 0.9·UNITY, truncated (R85). -/
def K09 : Word := 7549747

/-- UNITY/6 (R85). -/
def K16 : Word := 1398101

/-- 10·UNITY, the hard saturation limit (R85). -/
def SAT : Int := 83886080

/-- 0.05·UNITY, truncated (R108). -/
def ALPHA : Word := 419430

end Sys2Proof.Machine
end

