-- ==== Sys2Proof/Machine/Event.lean ====
section
/-!
DEFINITION. The steps the agents take, with what the outside world supplies to each (30_encoding.md R57;
00_scope.md R5): events have no encoding and no row in the opcode table.
-/

namespace Sys2Proof.Machine

/-- What the control hardware's `readRawValue()` returns: a 16-bit value or the error sentinel, which is no 16-bit
pattern (44_control_acquisition.md R105). -/
inductive Reading
  | value (r : BitVec 16)
  | error
deriving DecidableEq, Repr, Inhabited

/-- One step of one agent (R5, R57), with its outside operands. -/
inductive Event
  /-- The command port takes one host word (R46). -/
  | command (w : Word)
  /-- The transport hands over a block of `frames` frames with its entry timestamp (R60). -/
  | blockStart (frames : Nat) (samples : List Sample) (now : Word)
  /-- The audio sequencer processes the next frame (R70). -/
  | frame
  /-- The audio sequencer returns the block, with its exit timestamp (R71). -/
  | blockEnd (now : Word)
  /-- One acquisition conversion (R106). -/
  | acqTick (r : Reading)
  /-- One dispatcher micro-step (R76 to R79). -/
  | selStep
  /-- The reset event (R131). -/
  | reset
deriving DecidableEq, Repr, Inhabited

end Sys2Proof.Machine
end

