-- ==== Sys2Proof/Config.lean ====
section
/-!
DEFINITION. What the spec leaves to the implementation or to the outside world (00_scope.md R8): every one an opaque
constant, so that no proof can see its value and a claim about the machine holds for every choice.
`Config.defaults` are R8's defaults, which only the tests use.
-/

namespace Sys2Proof

/-- The plain parameters of 00_scope.md R8. -/
structure Params where
  /-- MAX_FRAMES, a natural ≥ 1: the largest frame count a block may carry. -/
  maxFrames : ℕ+
  /-- WET_CHANNEL: the control channel read as the wet/dry mix value. -/
  wetChannel : Fin 4
  /-- AFF_MUL, signed: slope of the raw-to-normalised map. -/
  affMul : Word
  /-- AFF_ADD, signed: offset of the raw-to-normalised map. -/
  affAdd : Word
  /-- opaqueInitOk(VCA). -/
  vcaInitOk : Bool
  /-- opaqueInitOk(CleanDelay). -/
  delayInitOk : Bool
deriving DecidableEq, Repr, Inhabited

/-- The hidden state of an opaque effect: R22 leaves its type open; here any list of words
(notes/assumptions/6.md). -/
abbrev Hidden := List Word

/-- The implementation's parameters (R8; notes/assumptions/5.md). -/
opaque Config.params : Params

/-- The defaults R8 lists "used in 95_test_vectors.md". -/
def Config.defaults : Params :=
  { maxFrames := 256, wetChannel := 3, affMul := 128, affAdd := 0, vcaInitOk := true, delayInitOk := true }

/-- `vcaInit` (R8). -/
opaque Config.vcaInit : Hidden

/-- `delayInit` (R8). -/
opaque Config.delayInit : Hidden

/-- The hidden state `vcaProcess` leaves (R65). -/
opaque Config.vcaNext : Hidden → Quad Value12 → List Sample → Hidden

/-- Element i of the block `vcaProcess` answers (R65); the block has the input's length (R8), see `opaqueBlock`. -/
opaque Config.vcaSample : Hidden → Quad Value12 → List Sample → Nat → Sample

/-- The hidden state `delayProcess` leaves (R65). -/
opaque Config.delayNext : Hidden → Quad Value12 → List Sample → Hidden

/-- Element i of the block `delayProcess` answers (R65). -/
opaque Config.delaySample : Hidden → Quad Value12 → List Sample → Nat → Sample

/-- The free choice of the next step where nothing is pending: any agent, any outside value
(R5 "any interleaving"; notes/assumptions/2.md). -/
opaque Config.offer : Nat → Machine.Event

end Sys2Proof
end

