-- ==== Sys2Proof/Machine/State.lean ====
section
/-!
DEFINITION. The state of LadderDSP-D03 (10_state.md) as plain data, the reasons a step can stop, and the state after
reset (70_reset_and_hazards.md R131).
-/

namespace Sys2Proof.Machine

/-- The filter modes a mode register can hold; values 5, 6, 7 are never held (R17). -/
inductive FilterMode
  | lowpass
  | highpass
  | bandpass
  | bypass
  | disabled
deriving DecidableEq, Repr, Inhabited

/-- The effect indices; 6 and 7 are never held (R20). -/
inductive Effect
  | bypass
  | vca
  | cleanDelay
  | lowpass
  | highpass
  | bandpass
deriving DecidableEq, Repr, Inhabited

/-- The next micro-step of a pending effect switch, or Idle (R21). -/
inductive SelPhase
  | idle
  | p1
  | p2
  | p3
  | p4
deriving DecidableEq, Repr, Inhabited

/-- The audio sequencer's phase (R23). -/
inductive AudioPhase
  | idle
  | inBlock
deriving DecidableEq, Repr, Inhabited

/-- The four states of the mute machine (R25). -/
inductive MuteState
  | passThrough
  | rampToMute
  | muted
  | rampToUnmute
deriving DecidableEq, Repr, Inhabited

/-- One ladder filter instance's register file (R16). -/
structure Filter where
  f : Word
  p : Word
  q : Word
  gain : Word
  b0 : Word
  b1 : Word
  b2 : Word
  b3 : Word
  b4 : Word
  t1 : Word
  t2 : Word
  mode : FilterMode
deriving DecidableEq, Repr, Inhabited

/-- The dispatcher's state (R20, R21). -/
structure Dispatcher where
  active : Effect
  selPhase : SelPhase
  selPrev : Effect
  selNew : Effect
deriving DecidableEq, Repr, Inhabited

/-- The audio sequencer's state (R23) and the mix state (R24). -/
structure Audio where
  phase : AudioPhase
  /-- F of R23. -/
  frames : Nat
  /-- n of R23. -/
  n : Nat
  buf : List Sample
  wet : List Sample
  prevWet : Value12
  currWet : Value12
deriving DecidableEq, Repr, Inhabited

/-- The mute machine (R25). -/
structure Mute where
  state : MuteState
  count : BitVec 10
deriving DecidableEq, Repr, Inhabited

/-- The LoadMonitor (R27). -/
structure LoadMonitor where
  tsPStart : Word
  tsEntry : Word
  tsExit : Word
  count : Fin 3
  load : Word
deriving DecidableEq, Repr, Inhabited

/-- The control channels (R28). -/
structure Acquisition where
  val : Quad Value12
  raw : Quad (BitVec 16)
  state : Quad Word
  chan : Fin 4
deriving DecidableEq, Repr, Inhabited

/-- The machine. `pending`, `draws` and `delivered` are the model's own fields (notes/assumptions/1.md, 2.md, 9.md);
every other field is a state element of 10_state.md. -/
structure State where
  fi0 : Filter
  fi1 : Filter
  dispatcher : Dispatcher
  vcaState : Hidden
  delayState : Hidden
  audio : Audio
  mute : Mute
  peak : Quad (BitVec 16)
  lm : LoadMonitor
  acq : Acquisition
  result : Word
  stopFlag : Bool
  fatalFlag : Bool
  /-- The steps the outside world has already fixed, oldest first. -/
  pending : List Event
  /-- How many steps have been drawn from `Config.offer`. -/
  draws : Nat
  /-- The output blocks handed to the transport, newest first. -/
  delivered : List (List Sample)
deriving DecidableEq, Repr, Inhabited

/-- Why a step stops. The hardware raises no exception (R118). -/
inductive Fault
  /-- Raised by FRAME when element 2n or 2n+1 lies outside Buf or Wet, the only address range the spec gives (R32).
  Safe: no state that meets `State.Inv` raises it, and no run from reset leaves `State.Inv`
  (notes/assumptions/8.md). -/
  | bufferIndex
deriving DecidableEq, Repr, Inhabited

/-- Why an instruction has no meaning. -/
inductive Refusal
  /-- Would be raised by an arm of `exec` whose instruction is not modelled yet; no arm does. Safe. -/
  | notModelled (mnemonic : String)
deriving DecidableEq, Repr, Inhabited

/-- A filter instance with every register 0 and mode Disabled (R16, R97). -/
def Filter.cleared : Filter :=
  { f := 0, p := 0, q := 0, gain := 0, b0 := 0, b1 := 0, b2 := 0, b3 := 0, b4 := 0, t1 := 0, t2 := 0,
    mode := .disabled }

/-- The machine right after reset: the table of R131, row by row. The model's own fields are empty. -/
def State.reset : State :=
  { fi0 := Filter.cleared
    fi1 := Filter.cleared
    dispatcher := { active := .bypass, selPhase := .idle, selPrev := .bypass, selNew := .bypass }
    vcaState := Config.vcaInit
    delayState := Config.delayInit
    audio := { phase := .idle, frames := 0, n := 0, buf := [], wet := [], prevWet := 0, currWet := 0 }
    mute := { state := .passThrough, count := 512 }
    peak := { c0 := 0, c1 := 0, c2 := 0, c3 := 0 }
    lm := { tsPStart := 0, tsEntry := 0, tsExit := 0, count := 0, load := 0 }
    acq := { val := { c0 := 0, c1 := 0, c2 := 0, c3 := 0 }, raw := { c0 := 0, c1 := 0, c2 := 0, c3 := 0 },
             state := { c0 := 0, c1 := 0, c2 := 0, c3 := 0 }, chan := 0 }
    result := 0
    stopFlag := false
    fatalFlag := false
    pending := []
    draws := 0
    delivered := [] }

end Sys2Proof.Machine
end

