-- ==== Sys2Proof/Machine/Ops.lean ====
section
/-!
DEFINITION. The named operations over the machine's registers and block buffers: filter instances (R16), four-element
registers (R26, R28), RESULT (R29), Buf and Wet (20_memory.md R32), and the one error report (R119). There is no trap
entry and no trap return to write (60_exceptions.md R118, R123).
-/

namespace Sys2Proof

/-- Read a four-element register. -/
def Quad.get {α : Type} (q : Quad α) : Fin 4 → α
  | 0 => q.c0
  | 1 => q.c1
  | 2 => q.c2
  | 3 => q.c3

/-- Write one element of a four-element register. -/
def Quad.set {α : Type} (q : Quad α) (i : Fin 4) (v : α) : Quad α :=
  match i with
  | 0 => { q with c0 := v }
  | 1 => { q with c1 := v }
  | 2 => { q with c2 := v }
  | 3 => { q with c3 := v }

end Sys2Proof

namespace Sys2Proof.Machine

/-- How a step of this machine ends. -/
abbrev StepOutcome := Host.Outcome State Fault Refusal

/-- Go on from a next state; a stop stays a stop. -/
def andThen (o : StepOutcome) (k : State → StepOutcome) : StepOutcome :=
  match o with
  | .next s => k s
  | .fault r => .fault r
  | .refused r => .refused r

/-- FI[ch] (R16). -/
def State.fi (s : State) : Chan → Filter
  | .left => s.fi0
  | .right => s.fi1

/-- Write FI[ch] (R16). -/
def State.setFi (s : State) (ch : Chan) (v : Filter) : State :=
  match ch with
  | .left => { s with fi0 := v }
  | .right => { s with fi1 := v }

/-- `RESULT <- v` (R29). -/
def State.setResult (s : State) (v : Word) : State := { s with result := v }

/-- Write one level meter (R26). -/
def State.setPeak (s : State) (i : Fin 4) (v : BitVec 16) : State := { s with peak := s.peak.set i v }

/-- A peak-hold meter keeps the larger of what it holds and `abs` of a Sample (R26, R62, R70). -/
def raisePeak (peak : BitVec 16) (v : Sample) : BitVec 16 := BitVec.ofNat 16 (max peak.toNat (sampleAbs v))

/-- The place of a lane inside a frame: element 2k + lane (R33). -/
def laneOffset : Chan → Nat
  | .left => 0
  | .right => 1

/-- The input meter of a lane: peak[0] inL, peak[1] inR (R26). -/
def inMeter : Chan → Fin 4
  | .left => 0
  | .right => 1

/-- The output meter of a lane: peak[2] outL, peak[3] outR (R26, R70). -/
def outMeter : Chan → Fin 4
  | .left => 2
  | .right => 3

/-- `Buf[i]` (R11, R32); no element outside the list exists. -/
def State.readBuf (s : State) (i : Nat) : Option Sample := s.audio.buf[i]?

/-- `Wet[i]` (R11, R32). -/
def State.readWet (s : State) (i : Nat) : Option Sample := s.audio.wet[i]?

/-- `Buf[i] <- v` (R11, R32). -/
def State.writeBuf (s : State) (i : Nat) (v : Sample) : State :=
  { s with audio := { s.audio with buf := s.audio.buf.set i v } }

/-- The report of an effect init failure: the sticky flag is set and the switch ends; Bypass stays active
(R78, R119). -/
def State.reportInitFailure (s : State) : State :=
  { s with fatalFlag := true, dispatcher := { s.dispatcher with selPhase := .idle } }

end Sys2Proof.Machine
end

