-- ==== Sys2Proof/Machine/Acquire.lean ====
section
/-!
DEFINITION. Control-channel acquisition (44_control_acquisition.md): the event ACQ_TICK.
-/

namespace Sys2Proof.Machine

/-- `affine(r) = wrap32(zext(r) · AFF_MUL + AFF_ADD)` (R107). -/
def affine (p : Params) (r : BitVec 16) : Word := wrap32 ((r.toNat : Int) * p.affMul.toInt + p.affAdd.toInt)

/-- One smoothing update towards `norm` (R106, R108). -/
def smooth (state norm : Word) : Word := state + mult (norm - state) ALPHA

/-- `quant(s) = clamp(s >>a 11, 0, 4095)` (R109). -/
def quant (state : Word) : Value12 := BitVec.ofInt 12 (clamp (asr state.toInt 11) 0 4095)

/-- Channel `acqChan` takes a reading; an ERROR keeps its registers (R106, R110). The index moves on either way. -/
def Acquisition.tick (p : Params) (a : Acquisition) (r : Reading) : Acquisition :=
  match r with
  | .value raw =>
    let st := smooth (a.state.get a.chan) (affine p raw)
    { val := a.val.set a.chan (quant st), raw := a.raw.set a.chan raw, state := a.state.set a.chan st,
      chan := a.chan + 1 }
  | .error => { a with chan := a.chan + 1 }

/-- ACQ_TICK(r) (R106): no step while the stop flag is set (R115). -/
def acqTick (p : Params) (r : Reading) (s : State) : StepOutcome :=
  if s.stopFlag then .next s else .next { s with acq := s.acq.tick p r }

end Sys2Proof.Machine
end

