-- ==== Sys2Proof/Syntax.lean ====
section
/-!
DEFINITION. The commands of LadderDSP-D03: one constructor per row of spec/opcode_table.json (30_encoding.md R54),
with the operands of R48 to R53 at their encoded widths. Events are not commands (R57): Machine/Event.lean.
-/

namespace Sys2Proof

/-- One host command (30_encoding.md R54). -/
inductive Instr
  /-- op 0x0: no operation (R116). -/
  | nop
  /-- op 0x1: set a filter instance's parameters (R89). -/
  | fsetp (ch : Chan) (mode : BitVec 3) (cutoff res : Value12)
  /-- op 0x2: process one Sample (R92). -/
  | fproc (ch : Chan) (sample : Sample)
  /-- op 0x3: duplicate settings (R96). -/
  | fdup (src dst : Chan)
  /-- op 0x4: initialise a filter instance (R97). -/
  | finit (ch : Chan)
  /-- op 0x5: request an effect switch (R75). -/
  | select (idx : BitVec 3)
  /-- op 0x6: start a mute or unmute ramp (R100). -/
  | mute (on : Bool)
  /-- op 0x7: read and clear a level meter (R112). -/
  | getlevel (idx : BitVec 2)
  /-- op 0x8: read the load percentage (R113). -/
  | getload
  /-- op 0x9: read a status register (R114). -/
  | rdstat (reg : BitVec 8)
  /-- op 0xA: set the stop flag (R115). -/
  | stop
  /-- op 0xB: reserved, ignored (R117). -/
  | reservedB
  /-- op 0xC: reserved, ignored (R117). -/
  | reservedC
  /-- op 0xD: reserved, ignored (R117). -/
  | reservedD
  /-- op 0xE: reserved, ignored (R117). -/
  | reservedE
  /-- op 0xF: reserved, ignored (R117). -/
  | reservedF
deriving DecidableEq, Repr, Inhabited

end Sys2Proof
end

