-- ==== Sys2Proof/WellFormed.lean ====
section
/-!
DEFINITION. What the front end lets through (93_implementation_defined.md U1 and U3: "refuse in the assembler"):
no reserved opcode, no FSETP with mode 5 to 7, no SELECT with index 6 or 7. Every other command's operands are exact
fields, so nothing else can be ill-formed. The MACHINE gives every command a meaning, well-formed or not (R55):
decoding, encoding and execution never ask for this check (notes/assumptions/13.md).
-/

namespace Sys2Proof

/-- The front end's check of one command (93 U1, U3). -/
def Instr.wellFormed : Instr → Bool
  | .nop => true
  | .fsetp _ mode _ _ => decide (mode.toNat ≤ 4)
  | .fproc _ _ => true
  | .fdup _ _ => true
  | .finit _ => true
  | .select idx => decide (idx.toNat ≤ 5)
  | .mute _ => true
  | .getlevel _ => true
  | .getload => true
  | .rdstat _ => true
  | .stop => true
  | .reservedB => false
  | .reservedC => false
  | .reservedD => false
  | .reservedE => false
  | .reservedF => false

end Sys2Proof
end

