-- ==== Sys2Proof/Decode.lean ====
section
/-!
DEFINITION. The decoder and the encoder of command words (30_encoding.md R46 to R55). Decoding is total: every 32-bit
word selects exactly one row of R54, reserved bits are ignored (R55), no operand is scaled or shifted (R53).
The encoder writes every reserved bit as 0 (R58).
-/

namespace Sys2Proof

/-- `v[hi:lo]` as a field of `len` bits from bit `lo` up (R9). -/
def bitField (w : Word) (lo len : Nat) : BitVec len := w.extractLsb' lo len

/-- A one-bit field (R53). -/
def bitAt (w : Word) (i : Nat) : Bool := w.getLsbD i

/-- The filter instance a one-bit field names: 0 is FI[0], 1 is FI[1] (R53). -/
def chanOfBit : Bool → Chan
  | false => .left
  | true => .right

/-- The field of a filter instance (R53). -/
def Chan.bit : Chan → Bool
  | .left => false
  | .right => true

/-- The command of an opcode (R54), its operands taken from the word as R48 to R53 say. -/
def decodeOp (op : Nat) (w : Word) : Instr :=
  match op with
  | 0x0 => .nop
  | 0x1 => .fsetp (chanOfBit (bitAt w 27)) (bitField w 24 3) (bitField w 12 12) (bitField w 0 12)
  | 0x2 => .fproc (chanOfBit (bitAt w 27)) (bitField w 0 16)
  | 0x3 => .fdup (chanOfBit (bitAt w 27)) (chanOfBit (bitAt w 26))
  | 0x4 => .finit (chanOfBit (bitAt w 27))
  | 0x5 => .select (bitField w 0 3)
  | 0x6 => .mute (bitAt w 0)
  | 0x7 => .getlevel (bitField w 0 2)
  | 0x8 => .getload
  | 0x9 => .rdstat (bitField w 0 8)
  | 0xA => .stop
  | 0xB => .reservedB
  | 0xC => .reservedC
  | 0xD => .reservedD
  | 0xE => .reservedE
  | _ => .reservedF

/-- The command a word of the command port selects: opcode in bits 31:28 (R46). -/
def decode (w : Word) : Instr := decodeOp (bitField w 28 4).toNat w

/-- A field's share of a word whose bits from `lo` up it fills (R9). -/
def placed {n : Nat} (field : BitVec n) (lo : Nat) : Nat := field.toNat * 2 ^ lo

/-- A one-bit field's share of a word. -/
def placedBit (b : Bool) (lo : Nat) : Nat := b.toNat * 2 ^ lo

/-- The number of the word of a command, every field at its place and reserved bits 0: the formats N, FS, FP, FD, FC
and I (R47 to R52). -/
def encodeNat : Instr → Nat
  | .nop => 0x0 * 2 ^ 28
  | .fsetp ch mode cutoff res =>
    0x1 * 2 ^ 28 + placedBit ch.bit 27 + placed mode 24 + placed cutoff 12 + placed res 0
  | .fproc ch sample => 0x2 * 2 ^ 28 + placedBit ch.bit 27 + placed sample 0
  | .fdup src dst => 0x3 * 2 ^ 28 + placedBit src.bit 27 + placedBit dst.bit 26
  | .finit ch => 0x4 * 2 ^ 28 + placedBit ch.bit 27
  | .select idx => 0x5 * 2 ^ 28 + placed idx 0
  | .mute on => 0x6 * 2 ^ 28 + placedBit on 0
  | .getlevel idx => 0x7 * 2 ^ 28 + placed idx 0
  | .getload => 0x8 * 2 ^ 28
  | .rdstat reg => 0x9 * 2 ^ 28 + placed reg 0
  | .stop => 0xA * 2 ^ 28
  | .reservedB => 0xB * 2 ^ 28
  | .reservedC => 0xC * 2 ^ 28
  | .reservedD => 0xD * 2 ^ 28
  | .reservedE => 0xE * 2 ^ 28
  | .reservedF => 0xF * 2 ^ 28

/-- The word of a command (R47 to R52, R58). -/
def encode (i : Instr) : Word := BitVec.ofNat 32 (encodeNat i)

/-- The command word whose bits are the low `nbits` bits of `w` and zero above them: a command is one whole 32-bit
word, taken by the command port as it is (R35, R46; notes/assumptions/12.md). -/
def tableWord (nbits w : Nat) : Word := BitVec.ofNat 32 (w % 2 ^ nbits)

/-- The command the decoder reads from an opcode-table word. No word is refused (R46, R55). -/
def decodeTableWord (nbits w : Nat) : Option Instr := some (decode (tableWord nbits w))

end Sys2Proof
end

