-- ==== Sys2Proof/Machine/Operands.lean ====
section
/-!
DEFINITION. Operand forms: what an operand field names (30_encoding.md R53 with R17, R20, R26) and the conversions
between 12-bit parameters, Samples and S8.23 (42_ladder_filter.md R86 to R88).
-/

namespace Sys2Proof.Machine

/-- The filter mode a 3-bit field requests; 5, 6, 7 name none (R17, R89). -/
def requestedMode (m : BitVec 3) : Option FilterMode :=
  match m.toNat with
  | 0 => some .lowpass
  | 1 => some .highpass
  | 2 => some .bandpass
  | 3 => some .bypass
  | 4 => some .disabled
  | _ => none

/-- The effect a 3-bit index names; 6, 7 are out of range (R20, R75). -/
def effectOfIndex (i : BitVec 3) : Option Effect :=
  match i.toNat with
  | 0 => some .bypass
  | 1 => some .vca
  | 2 => some .cleanDelay
  | 3 => some .lowpass
  | 4 => some .highpass
  | 5 => some .bandpass
  | _ => none

/-- The meter a 2-bit index names: every one is legal (R112). -/
def meterOfIndex (i : BitVec 2) : Fin 4 :=
  match i.toNat with
  | 0 => 0
  | 1 => 1
  | 2 => 2
  | _ => 3

/-- A 12-bit parameter in S8.23: `v << 11` (R86). -/
def paramToFixed (v : Value12) : Word := v.setWidth 32 <<< 11

/-- A Sample in S8.23: `wrap32(sext_32(s) << 8)` (R87). -/
def sampleToFixed (s : Sample) : Word := s.signExtend 32 <<< 8

/-- An S8.23 output as a Sample: `sat16(wrap32(y + 128) >>a 8)` (R88). -/
def fixedToSample (y : Word) : Sample := sat16 (asr (y + 128).toInt 8)

end Sys2Proof.Machine
end

