-- ==== Sys2Proof/Machine/Filter.lean ====
section
/-!
DEFINITION. The ladder filter (42_ladder_filter.md): the state transformers `fsetp`, `fproc`, `fdup`, `finit`, which
the filter effects share (R67), and the commands FSETP, FPROC, FDUP, FINIT.
-/

namespace Sys2Proof.Machine

/-- Coefficient p for cutoff c (R90). -/
def coefP (c : Value12) : Word :=
  let fc := paramToFixed c
  fc + mult (mult K08 fc) (UNITY - fc)

/-- Coefficient f for cutoff c (R90). -/
def coefF (c : Value12) : Word := 2 * coefP c - UNITY

/-- Feedback coefficient qfb for cutoff c and resonance r (R90). -/
def coefQ (c r : Value12) : Word :=
  let q0 := UNITY - paramToFixed c
  mult (paramToFixed r) (UNITY + (mult q0 (UNITY - q0 + mult K56 (mult q0 q0))).sshiftRight 1)

/-- Output gain for cutoff c and resonance r (R90). -/
def coefGain (c r : Value12) : Word :=
  let res := paramToFixed r
  UNITY + res + mult (2 * res) (UNITY - paramToFixed c)

/-- The effective mode (R91): above 0.9·UNITY a requested Lowpass or Highpass gives Bypass, any other Disabled. -/
def effectiveMode (c : Value12) (m : FilterMode) : FilterMode :=
  if K09.toInt < (paramToFixed c).toInt then
    match m with
    | .lowpass => .bypass
    | .highpass => .bypass
    | .bandpass => .disabled
    | .bypass => .disabled
    | .disabled => .disabled
  else m

/-- `fsetp`: coefficients and effective mode; no tap, no scratch tap (R89). -/
def Filter.fsetp (fi : Filter) (c r : Value12) (m : FilterMode) : Filter :=
  { fi with f := coefF c, p := coefP c, q := coefQ c r, gain := coefGain c r, mode := effectiveMode c m }

/-- One one-pole stage: `mult(prev_sum, p) − mult(stage_old, f)` (R94 lines 3 to 6). -/
def Filter.stage (fi : Filter) (prevSum old : Word) : Word := mult prevSum fi.p - mult old fi.f

/-- The cubic soft clip (R94 line 7). -/
def softClip (b : Word) : Word := b - mult (mult (mult b b) b) K16

/-- The post-feedback input (R94 lines 1 and 2). -/
def Filter.feedbackInput (fi : Filter) (s : Sample) : Word := sampleToFixed s - mult fi.q fi.b4

/-- The registers after lines 1 to 9 of R94. Scratch t1 holds the old b1 and then the old b3, t2 the old b2. -/
def Filter.advance (fi : Filter) (s : Sample) : Filter :=
  let x := fi.feedbackInput s
  let b1 := fi.stage (x + fi.b0) fi.b1
  let b2 := fi.stage (b1 + fi.b1) fi.b2
  let b3 := fi.stage (b2 + fi.b2) fi.b3
  let b4 := fi.stage (b3 + fi.b3) fi.b4
  { fi with b0 := x, b1 := b1, b2 := b2, b3 := b3, b4 := clampWord (softClip b4) SAT, t1 := fi.b3, t2 := fi.b2 }

/-- The output taps of the filtering modes (R95), read after lines 1 to 9: b0 is then the post-feedback input x. -/
def Filter.lowpassTap (fi : Filter) : Word := mult fi.gain fi.b4

/-- See `Filter.lowpassTap`. -/
def Filter.highpassTap (fi : Filter) : Word := fi.b0 - mult fi.gain fi.b4

/-- See `Filter.lowpassTap`. -/
def Filter.bandpassTap (fi : Filter) : Word := mult fi.gain (3 * (fi.b3 - fi.b4))

/-- `fproc`: the instance after one Sample, and the output Sample (R93, R94, R95). -/
def Filter.fproc (fi : Filter) (s : Sample) : Filter × Sample :=
  match fi.mode with
  | .lowpass => (fi.advance s, fixedToSample (fi.advance s).lowpassTap)
  | .highpass => (fi.advance s, fixedToSample (fi.advance s).highpassTap)
  | .bandpass => (fi.advance s, fixedToSample (fi.advance s).bandpassTap)
  | .bypass => (fi, s)
  | .disabled => (fi, 0)

/-- `fdup`: the coefficients and the mode of `src` on the taps of `dst` (R96). -/
def Filter.fdup (src dst : Filter) : Filter :=
  { dst with f := src.f, p := src.p, q := src.q, gain := src.gain, mode := src.mode }

/-- `finit`: every register 0, mode Disabled (R97). -/
def Filter.finit (_ : Filter) : Filter := Filter.cleared

/-- FSETP ch, mode, cutoff, res (R89): modes 5 to 7 are ignored. -/
def execFsetp (ch : Chan) (mode : BitVec 3) (cutoff res : Value12) (s : State) : StepOutcome :=
  match requestedMode mode with
  | some m => .next (s.setFi ch ((s.fi ch).fsetp cutoff res m))
  | none => .next s

/-- FPROC ch, sample (R92): RESULT is the output Sample sign-extended. -/
def execFproc (ch : Chan) (sample : Sample) (s : State) : StepOutcome :=
  let r := (s.fi ch).fproc sample
  .next ((s.setFi ch r.1).setResult (r.2.signExtend 32))

/-- FDUP src, dst (R96). -/
def execFdup (src dst : Chan) (s : State) : StepOutcome :=
  .next (s.setFi dst ((s.fi src).fdup (s.fi dst)))

/-- FINIT ch (R97). -/
def execFinit (ch : Chan) (s : State) : StepOutcome :=
  .next (s.setFi ch (s.fi ch).finit)

end Sys2Proof.Machine
end

