-- ==== Sys2Proof/Machine/MuteRamp.lean ====
section
/-!
DEFINITION. The mute state machine (43_mute.md): the command MUTE, and the gain and the advance a FRAME step uses.
-/

namespace Sys2Proof.Machine

/-- MUTE on (R100): legal only from PassThrough (on) and from Muted (off), ignored otherwise. -/
def execMute (on : Bool) (s : State) : StepOutcome :=
  match on, s.mute.state with
  | true, .passThrough => .next { s with mute := { state := .rampToMute, count := 512 } }
  | false, .muted => .next { s with mute := { state := .rampToUnmute, count := 0 } }
  | _, _ => .next s

/-- `muteGainNum()` (R101). -/
def Mute.gainNum (m : Mute) : Nat :=
  match m.state with
  | .passThrough => 512
  | .rampToMute => m.count.toNat
  | .muted => 0
  | .rampToUnmute => m.count.toNat

/-- `muteApply(v, g) = (v · g) >>a 9` (R102). -/
def muteApply (v : Sample) (g : Nat) : Sample := BitVec.ofInt 16 (asr (v.toInt * (g : Int)) 9)

/-- `muteAdvance()` (R103): scale first, then count (90_conflicts.md C4). -/
def Mute.advance (m : Mute) : Mute :=
  match m.state with
  | .passThrough => m
  | .rampToMute => { state := if m.count - 1 = 0 then .muted else .rampToMute, count := m.count - 1 }
  | .muted => m
  | .rampToUnmute => { state := if m.count + 1 = 512 then .passThrough else .rampToUnmute, count := m.count + 1 }

end Sys2Proof.Machine
end

