-- ==== Sys2Proof/Machine/Flags.lean ====
section
/-!
DEFINITION. The hardware has no condition codes and no arithmetic flags (10_state.md R15); its two status flags and the
numbers its named states read as in the status map (R17, R20, R21, R25, R30).
-/

namespace Sys2Proof.Machine

/-- The number a filter mode reads as (R17). -/
def FilterMode.code : FilterMode → Nat
  | .lowpass => 0
  | .highpass => 1
  | .bandpass => 2
  | .bypass => 3
  | .disabled => 4

/-- The number an effect reads as (R20). -/
def Effect.code : Effect → Nat
  | .bypass => 0
  | .vca => 1
  | .cleanDelay => 2
  | .lowpass => 3
  | .highpass => 4
  | .bandpass => 5

/-- The number a switch phase reads as (R21). -/
def SelPhase.code : SelPhase → Nat
  | .idle => 0
  | .p1 => 1
  | .p2 => 2
  | .p3 => 3
  | .p4 => 4

/-- The number a mute state reads as (R25). -/
def MuteState.code : MuteState → Nat
  | .passThrough => 0
  | .rampToMute => 1
  | .muted => 2
  | .rampToUnmute => 3

/-- The FLAGS register: bit 0 stopFlag, bit 1 fatalFlag, bit 2 a block is in progress, bits 31:3 zero (R30). -/
def flagsWord (s : State) : Word :=
  0#29 ++ BitVec.ofBool (decide (s.audio.phase = .inBlock)) ++ BitVec.ofBool s.fatalFlag ++ BitVec.ofBool s.stopFlag

end Sys2Proof.Machine
end

