-- ==== Sys2Proof/Machine/Status.lean ====
section
/-!
DEFINITION. Status access, stop and no-operation commands (45_status_access.md) and the status register map
(10_state.md R30).
-/

namespace Sys2Proof.Machine

/-- Register k of a filter instance in the status map, k = 0 to 9; t1 and t2 are not exposed (R19, R30). -/
def Filter.statusReg (fi : Filter) (k : Nat) : Word :=
  match k with
  | 0 => fi.f
  | 1 => fi.p
  | 2 => fi.q
  | 3 => fi.gain
  | 4 => fi.b0
  | 5 => fi.b1
  | 6 => fi.b2
  | 7 => fi.b3
  | 8 => fi.b4
  | 9 => BitVec.ofNat 32 fi.mode.code
  | _ => 0

/-- `statusValue(reg)`: zero-extended, signed registers as their 32-bit pattern, 0 for a reserved number (R30). -/
def statusValue (s : State) (reg : BitVec 8) : Word :=
  match reg.toNat with
  | 0x00 => BitVec.ofNat 32 s.dispatcher.active.code
  | 0x01 => BitVec.ofNat 32 s.dispatcher.selPhase.code
  | 0x02 => BitVec.ofNat 32 s.mute.state.code
  | 0x03 => s.mute.count.setWidth 32
  | 0x04 => s.acq.val.c0.setWidth 32
  | 0x05 => s.acq.val.c1.setWidth 32
  | 0x06 => s.acq.val.c2.setWidth 32
  | 0x07 => s.acq.val.c3.setWidth 32
  | 0x08 => s.acq.raw.c0.setWidth 32
  | 0x09 => s.acq.raw.c1.setWidth 32
  | 0x0A => s.acq.raw.c2.setWidth 32
  | 0x0B => s.acq.raw.c3.setWidth 32
  | 0x0C => s.acq.state.c0
  | 0x0D => s.acq.state.c1
  | 0x0E => s.acq.state.c2
  | 0x0F => s.acq.state.c3
  | 0x10 => s.lm.load
  | 0x11 => flagsWord s
  | 0x12 => s.audio.prevWet.setWidth 32
  | 0x13 => s.audio.currWet.setWidth 32
  | 0x14 => BitVec.ofNat 32 s.acq.chan.val
  | 0x15 => BitVec.ofNat 32 s.lm.count.val
  | 0x16 => s.lm.tsPStart
  | 0x17 => s.lm.tsEntry
  | 0x18 => s.lm.tsExit
  | r =>
    if 0x20 ≤ r ∧ r < 0x30 then s.fi0.statusReg (r - 0x20)
    else if 0x30 ≤ r ∧ r < 0x40 then s.fi1.statusReg (r - 0x30)
    else 0

/-- GETLEVEL idx: read and clear in one step (R112). -/
def execGetlevel (idx : BitVec 2) (s : State) : StepOutcome :=
  let i := meterOfIndex idx
  .next ((s.setResult ((s.peak.get i).setWidth 32)).setPeak i 0)

/-- GETLOAD (R113). -/
def execGetload (s : State) : StepOutcome := .next (s.setResult s.lm.load)

/-- RDSTAT reg (R114). -/
def execRdstat (reg : BitVec 8) (s : State) : StepOutcome := .next (s.setResult (statusValue s reg))

/-- STOP (R115). -/
def execStop (s : State) : StepOutcome := .next { s with stopFlag := true }

/-- A command that is ignored: no state change (R116, R117). -/
def ignored (s : State) : StepOutcome := .next s

/-- NOP (R116). -/
def execNop (s : State) : StepOutcome := ignored s

/-- Opcode 0xB (R117). -/
def execReservedB (s : State) : StepOutcome := ignored s

/-- Opcode 0xC (R117). -/
def execReservedC (s : State) : StepOutcome := ignored s

/-- Opcode 0xD (R117). -/
def execReservedD (s : State) : StepOutcome := ignored s

/-- Opcode 0xE (R117). -/
def execReservedE (s : State) : StepOutcome := ignored s

/-- Opcode 0xF (R117). -/
def execReservedF (s : State) : StepOutcome := ignored s

end Sys2Proof.Machine
end

