-- ==== Sys2Proof/Machine/Switch.lean ====
section
/-!
DEFINITION. Effect dispatch and the switch protocol (41_effect_dispatch.md): the command SELECT and the dispatcher's
four micro-steps.
-/

namespace Sys2Proof.Machine

/-- SELECT idx (R75): accepted when idx ≤ 5 and no switch is pending, ignored otherwise. -/
def execSelect (idx : BitVec 3) (s : State) : StepOutcome :=
  match effectOfIndex idx, s.dispatcher.selPhase with
  | some e, .idle =>
    .next { s with dispatcher :=
      { s.dispatcher with selPrev := s.dispatcher.active, selNew := e, selPhase := .p1 } }
  | _, _ => .next s

/-- Clean-up of an effect writes no state of the spec, whichever effect it is (R77). -/
def State.cleanup (s : State) (_ : Effect) : State := s

/-- The switch moves on to its next micro-step. -/
def State.setSelPhase (s : State) (p : SelPhase) : State :=
  { s with dispatcher := { s.dispatcher with selPhase := p } }

/-- Micro-step 1: force Bypass (R76). -/
def selStep1 (s : State) : State :=
  { s with dispatcher := { s.dispatcher with active := .bypass, selPhase := .p2 } }

/-- Micro-step 2: clean up the previous effect (R77). -/
def selStep2 (s : State) : State := (s.cleanup s.dispatcher.selPrev).setSelPhase .p3

/-- The shared init routine of the filter effects (R78). -/
def State.initFilters (s : State) : State := { s with fi0 := s.fi0.finit, fi1 := s.fi1.finit }

/-- Micro-step 3: initialise the requested effect (R78). -/
def selStep3 (p : Params) (s : State) : State :=
  match s.dispatcher.selNew with
  | .bypass => s.setSelPhase .p4
  | .lowpass => s.initFilters.setSelPhase .p4
  | .highpass => s.initFilters.setSelPhase .p4
  | .bandpass => s.initFilters.setSelPhase .p4
  | .vca =>
    if p.vcaInitOk then { s with vcaState := Config.vcaInit }.setSelPhase .p4 else s.reportInitFailure
  | .cleanDelay =>
    if p.delayInitOk then { s with delayState := Config.delayInit }.setSelPhase .p4 else s.reportInitFailure

/-- Micro-step 4: publish the new index (R79). -/
def selStep4 (s : State) : State :=
  { s with dispatcher := { s.dispatcher with active := s.dispatcher.selNew, selPhase := .idle } }

/-- SEL_STEP: the micro-step the phase names; none when Idle (R81). The stop flag does not disable it. -/
def selStep (p : Params) (s : State) : StepOutcome :=
  match s.dispatcher.selPhase with
  | .idle => .next s
  | .p1 => .next (selStep1 s)
  | .p2 => .next (selStep2 s)
  | .p3 => .next (selStep3 p s)
  | .p4 => .next (selStep4 s)

end Sys2Proof.Machine
end

