-- ==== Sys2Proof/Machine/Dispatch.lean ====
section
/-!
DEFINITION. The command port's dispatch: one arm per command (30_encoding.md R54).
-/

namespace Sys2Proof.Machine

/-- What one command does (R54). -/
def exec (i : Instr) (s : State) : Host.Outcome State Fault Refusal :=
  match i with
  | .nop => Sys2Proof.Machine.execNop s
  | .fsetp ch mode cutoff res => Sys2Proof.Machine.execFsetp ch mode cutoff res s
  | .fproc ch sample => Sys2Proof.Machine.execFproc ch sample s
  | .fdup src dst => Sys2Proof.Machine.execFdup src dst s
  | .finit ch => Sys2Proof.Machine.execFinit ch s
  | .select idx => Sys2Proof.Machine.execSelect idx s
  | .mute on => Sys2Proof.Machine.execMute on s
  | .getlevel idx => Sys2Proof.Machine.execGetlevel idx s
  | .getload => Sys2Proof.Machine.execGetload s
  | .rdstat reg => Sys2Proof.Machine.execRdstat reg s
  | .stop => Sys2Proof.Machine.execStop s
  | .reservedB => Sys2Proof.Machine.execReservedB s
  | .reservedC => Sys2Proof.Machine.execReservedC s
  | .reservedD => Sys2Proof.Machine.execReservedD s
  | .reservedE => Sys2Proof.Machine.execReservedE s
  | .reservedF => Sys2Proof.Machine.execReservedF s

end Sys2Proof.Machine
end

