-- ==== Sys2Proof/Machine/Frames.lean ====
section
/-!
DEFINITION. The audio frame processor (40_frame_processor.md): BLOCK_START, FRAME, BLOCK_END, the effects, the meters
and the load monitor.
-/

namespace Sys2Proof.Machine

/-- A block entry: the previous entry becomes the period start (R60). -/
def LoadMonitor.enter (lm : LoadMonitor) (now : Word) : LoadMonitor :=
  { lm with tsPStart := lm.tsEntry, tsEntry := now, count := if lm.count.val = 0 then 1 else 2 }

/-- The load a block exit leaves, from the three timestamps (R72). -/
def LoadMonitor.update (lm : LoadMonitor) : LoadMonitor :=
  let busy := (lm.tsExit - lm.tsEntry).toNat
  let period := (lm.tsEntry - lm.tsPStart).toNat
  if lm.count.val = 2 ∧ period ≠ 0 then
    { lm with load := BitVec.ofNat 32 (min (100 * busy / period) (2 ^ 32 - 1)) }
  else lm

/-- `meterInputs()` over an interleaved block (R62). -/
def meterInputs (peak : Quad (BitVec 16)) : List Sample → Quad (BitVec 16)
  | l :: r :: rest =>
    meterInputs ((peak.set 0 (raisePeak (peak.get 0) l)).set 1 (raisePeak (peak.get 1) r)) rest
  | _ => peak

/-- `shape(c) = c³ >>a 24` (R66). -/
def shape (c : Value12) : Value12 := BitVec.ofNat 12 ((c.toNat * c.toNat * c.toNat) >>> 24)

/-- The filter loop of R67 over an interleaved block: L through the first instance, R through the second. -/
def filterBlock (fl fr : Filter) : List Sample → Filter × Filter × List Sample
  | l :: r :: rest =>
    let a := fl.fproc l
    let b := fr.fproc r
    let c := filterBlock a.1 b.1 rest
    (c.1, c.2.1, a.2 :: b.2 :: c.2.2)
  | _ => (fl, fr, [])

/-- A filter effect with requested mode m (R67). RESULT is not written. -/
def State.runFilterEffect (s : State) (m : FilterMode) : State :=
  let f0 := s.fi0.fsetp (shape s.acq.val.c0) s.acq.val.c1 m
  let f1 := f0.fdup s.fi1
  let c := filterBlock f0 f1 s.audio.buf
  { s with fi0 := c.1, fi1 := c.2.1, audio := { s.audio with wet := c.2.2 } }

/-- A block of the input's length whose elements an opaque effect chooses (R8, R65). -/
def opaqueBlock (element : Nat → Sample) (buf : List Sample) : List Sample :=
  (List.range buf.length).map element

/-- `runEffect(active)` (R63, R64, R65, R67). -/
def State.runEffect (s : State) : State :=
  match s.dispatcher.active with
  | .bypass => { s with audio := { s.audio with wet := s.audio.buf } }
  | .vca =>
    { s with
      vcaState := Config.vcaNext s.vcaState s.acq.val s.audio.buf
      audio := { s.audio with
        wet := opaqueBlock (Config.vcaSample s.vcaState s.acq.val s.audio.buf) s.audio.buf } }
  | .cleanDelay =>
    { s with
      delayState := Config.delayNext s.delayState s.acq.val s.audio.buf
      audio := { s.audio with
        wet := opaqueBlock (Config.delaySample s.delayState s.acq.val s.audio.buf) s.audio.buf } }
  | .lowpass => s.runFilterEffect .lowpass
  | .highpass => s.runFilterEffect .highpass
  | .bandpass => s.runFilterEffect .bandpass

/-- When the audio sequencer may take a block (R60, R120): otherwise the block is refused, never truncated. -/
def blockStartEnabled (p : Params) (frames : Nat) (samples : List Sample) (s : State) : Bool :=
  decide (s.audio.phase = .idle ∧ s.stopFlag = false ∧ frames ≤ p.maxFrames ∧ samples.length = 2 * frames)

/-- What BLOCK_START writes before the effect runs: load monitor, F, n, Buf, currWet, input meters (R60, R61, R62). -/
def State.takeBlock (p : Params) (frames : Nat) (samples : List Sample) (now : Word) (s : State) : State :=
  { s with
    lm := s.lm.enter now
    audio := { s.audio with frames := frames, n := 0, buf := samples, currWet := s.acq.val.get p.wetChannel }
    peak := meterInputs s.peak samples }

/-- The block is in progress (R60, last line). -/
def State.enterBlock (s : State) : State := { s with audio := { s.audio with phase := .inBlock } }

/-- BLOCK_START(F, samples, now) (R60). -/
def blockStart (p : Params) (frames : Nat) (samples : List Sample) (now : Word) (s : State) : StepOutcome :=
  if blockStartEnabled p frames samples s then
    .next (s.takeBlock p frames samples now).runEffect.enterBlock
  else .next s

/-- The wet gain w(n) of frame n of a block of F frames (R68). -/
def wetGain (prevWet currWet : Value12) (n frames : Nat) : Int :=
  prevWet.toNat + truncdiv ((n : Int) * ((currWet.toNat : Int) - prevWet.toNat)) frames

/-- `mix(i)`: floor of the weighted sum by 4096, saturated (R69; 90_conflicts.md C1). -/
def mix (w : Int) (wet dry : Sample) : Sample := sat16 (asr (w * wet.toInt + (4095 - w) * dry.toInt) 12)

/-- One lane of a FRAME step: mix, mute, write back, meter (R70). -/
def frameLane (w : Int) (g : Nat) (ch : Chan) (s : State) : StepOutcome :=
  let i := 2 * s.audio.n + laneOffset ch
  match s.readBuf i, s.readWet i with
  | some dry, some wet =>
    let o := muteApply (mix w wet dry) g
    .next ((s.writeBuf i o).setPeak (outMeter ch) (raisePeak (s.peak.get (outMeter ch)) o))
  | _, _ => .fault .bufferIndex

/-- The end of a FRAME step: the mute machine advances once, and so does n (R70, R103). -/
def State.endFrame (s : State) : State :=
  { s with mute := s.mute.advance, audio := { s.audio with n := s.audio.n + 1 } }

/-- When FRAME is enabled (R70). -/
def frameEnabled (s : State) : Bool := decide (s.audio.phase = .inBlock ∧ s.audio.n < s.audio.frames)

/-- FRAME (R70): both lanes under one wet gain and one mute gain. -/
def frame (s : State) : StepOutcome :=
  if frameEnabled s then
    let w := wetGain s.audio.prevWet s.audio.currWet s.audio.n s.audio.frames
    let g := s.mute.gainNum
    andThen (frameLane w g .left s) fun s1 => andThen (frameLane w g .right s1) fun s2 => .next s2.endFrame
  else .next s

/-- When BLOCK_END is enabled (R71). -/
def blockEndEnabled (s : State) : Bool := decide (s.audio.phase = .inBlock ∧ s.audio.n = s.audio.frames)

/-- BLOCK_END(now) (R71): the stop flag does not disable it. The delivered block is recorded
(notes/assumptions/9.md). -/
def blockEnd (now : Word) (s : State) : StepOutcome :=
  if blockEndEnabled s then
    .next { s with
      lm := LoadMonitor.update { s.lm with tsExit := now }
      audio := { s.audio with prevWet := s.audio.currWet, phase := .idle }
      delivered := s.audio.buf :: s.delivered }
  else .next s

end Sys2Proof.Machine
end

