-- ==== Sys2Proof/Machine/Agents.lean ====
section
/-!
DEFINITION. One step of one agent (00_scope.md R5): the event says which agent steps and with what outside value.
A step that is not enabled changes nothing (60_exceptions.md R120; notes/assumptions/4.md).
-/

namespace Sys2Proof.Machine

/-- RESET (R131): every state element takes its reset value. The model's own fields are no state elements and stay
(notes/assumptions/10.md). -/
def resetEvent (s : State) : StepOutcome :=
  .next { State.reset with pending := s.pending, draws := s.draws, delivered := s.delivered }

/-- One step of the agent the event names, with implementation parameters p. -/
def performWith (p : Params) (e : Event) (s : State) : StepOutcome :=
  match e with
  | .command w => exec (decode w) s
  | .blockStart frames samples now => blockStart p frames samples now s
  | .frame => frame s
  | .blockEnd now => blockEnd now s
  | .acqTick r => acqTick p r s
  | .selStep => selStep p s
  | .reset => resetEvent s

/-- One step of the agent the event names, on this machine. -/
def perform (e : Event) (s : State) : StepOutcome := performWith Config.params e s

/-- The next step and the state it is taken in: the oldest pending one, or else a free choice
(notes/assumptions/1.md, 2.md). -/
def nextEvent (s : State) : Event × State :=
  match s.pending with
  | e :: rest => (e, { s with pending := rest })
  | [] => (Config.offer s.draws, { s with draws := s.draws + 1 })

/-- A host word placed in front of everything pending. -/
def State.offerCommand (s : State) (w : Word) : State := { s with pending := .command w :: s.pending }

end Sys2Proof.Machine
end

