-- ==== Sys2Proof/Machine/Step.lean ====
section
/-!
DEFINITION. One step of the machine: one atomic step of one agent (00_scope.md R5, 20_memory.md R40).
-/

namespace Sys2Proof.Machine

/-- One atomic step. -/
def step (s : State) : Host.Outcome State Fault Refusal := perform (nextEvent s).1 (nextEvent s).2

/-- The state in which the very next step takes the command word (`tableWord`) from the command port
(notes/assumptions/3.md). -/
def State.withFetchWord (s : State) (nbits w : Nat) : State := s.offerCommand (tableWord nbits w)

end Sys2Proof.Machine
end

