-- ==== Sys2Proof/Machine/Assembler.lean ====
section
/-!
DEFINITION. The assembler (30_encoding.md R58) and the pseudo-instructions (R59): one line of text to host steps.
An operand outside its field is refused, reserved fields are 0, a negative sample is its 16-bit pattern.
White space, letter case, labels, L and R beyond `ch`, and the directive .word: DESIGN CHOICE, notes/assumptions/14.md.
-/

namespace Sys2Proof.Machine

/-- What a host does with the command port: write a word, or repeat a word until RESULT holds a value (R59's host
loops). -/
inductive HostStep
  | issue (w : Word)
  | poll (w : Word) (value : Word)
deriving DecidableEq, Repr, Inhabited

/-- A digit of a base up to 16. -/
def digitValue (base : Nat) (c : Char) : Option Nat :=
  let v :=
    if '0' ≤ c ∧ c ≤ '9' then c.toNat - 48
    else if 'a' ≤ c ∧ c ≤ 'f' then c.toNat - 87
    else if 'A' ≤ c ∧ c ≤ 'F' then c.toNat - 55
    else base
  if v < base then some v else none

/-- A nonempty string of digits. -/
def parseDigits (base : Nat) (cs : List Char) : Option Nat :=
  if cs = [] then none
  else cs.foldl (fun acc c => acc.bind fun a => (digitValue base c).map (a * base + ·)) (some 0)

/-- A number, decimal or `0x` hexadecimal (R58). -/
def parseUnsigned : List Char → Option Nat
  | '0' :: 'x' :: ds => parseDigits 16 ds
  | ds => parseDigits 10 ds

/-- A number with an optional minus sign. -/
def parseNumber : List Char → Option Int
  | '-' :: ds => (parseUnsigned ds).map fun v => -(v : Int)
  | ds => (parseUnsigned ds).map fun v => (v : Int)

/-- White space inside a line. -/
def isBlankChar (c : Char) : Bool := c = ' ' || c = '\t' || c = '\r'

/-- A token without the white space around it. -/
def trimBlanks (cs : List Char) : List Char :=
  ((cs.dropWhile isBlankChar).reverse.dropWhile isBlankChar).reverse

/-- Cut at every comma (R58). -/
def splitCommas : List Char → List (List Char)
  | [] => [[]]
  | c :: cs =>
    match splitCommas cs with
    | [] => [[]]
    | t :: ts => if c = ',' then [] :: t :: ts else (c :: t) :: ts

/-- A line without its comment, from `;` to its end (R58). -/
def stripComment (cs : List Char) : List Char := cs.takeWhile fun c => !(c = ';')

/-- A line's mnemonic and its operands. -/
def tokens (line : List Char) : List Char × List (List Char) :=
  let t := trimBlanks (stripComment line)
  let rest := trimBlanks (t.dropWhile fun c => !isBlankChar c)
  (t.takeWhile fun c => !isBlankChar c, if rest = [] then [] else (splitCommas rest).map trimBlanks)

/-- Names of filter instances (R58). -/
def chanNames : List (List Char × Int) := [("L".toList, 0), ("R".toList, 1)]

/-- Names of filter modes (R17, R58). -/
def modeNames : List (List Char × Int) :=
  [("LP".toList, 0), ("HP".toList, 1), ("BP".toList, 2), ("BYP".toList, 3), ("DIS".toList, 4)]

/-- Names of effects (R20, R58). -/
def effectNames : List (List Char × Int) :=
  [("BYPASS".toList, 0), ("VCA".toList, 1), ("DELAY".toList, 2), ("LOWPASS".toList, 3), ("HIGHPASS".toList, 4),
   ("BANDPASS".toList, 5)]

/-- Names of meters (R26, R58). -/
def meterNames : List (List Char × Int) :=
  [("INL".toList, 0), ("INR".toList, 1), ("OUTL".toList, 2), ("OUTR".toList, 3)]

/-- Names of status registers (R30, R58). -/
def statusNames : List (List Char × Int) :=
  [("ACTIVE".toList, 0x00), ("SELPHASE".toList, 0x01), ("MUTESTATE".toList, 0x02), ("MUTECOUNT".toList, 0x03),
   ("CCVAL0".toList, 0x04), ("CCVAL1".toList, 0x05), ("CCVAL2".toList, 0x06), ("CCVAL3".toList, 0x07),
   ("CCRAW0".toList, 0x08), ("CCRAW1".toList, 0x09), ("CCRAW2".toList, 0x0A), ("CCRAW3".toList, 0x0B)] ++
  [("CCSTATE0".toList, 0x0C), ("CCSTATE1".toList, 0x0D), ("CCSTATE2".toList, 0x0E), ("CCSTATE3".toList, 0x0F),
   ("LOAD".toList, 0x10), ("FLAGS".toList, 0x11), ("PREVWET".toList, 0x12), ("CURRWET".toList, 0x13),
   ("ACQCHAN".toList, 0x14), ("LMCOUNT".toList, 0x15), ("TSPSTART".toList, 0x16), ("TSENTRY".toList, 0x17),
   ("TSEXIT".toList, 0x18)]

/-- The value of a name in a table. -/
def lookupName (t : List Char) : List (List Char × Int) → Option Int
  | [] => none
  | (k, v) :: rest => if k = t then some v else lookupName t rest

/-- An operand in [lo, hi]: a number or a name of the table; any other is refused (R58). -/
def operandIn (names : List (List Char × Int)) (lo hi : Int) (t : List Char) : Option Int :=
  match parseNumber t with
  | some v => if lo ≤ v ∧ v ≤ hi then some v else none
  | none => lookupName t names

/-- The filter instance of an operand: 0, 1, L or R (R58, which gives L and R for `ch`; that FDUP's src and dst take them
too is the model's choice, notes/assumptions/14.md). -/
def chanOperand (t : List Char) : Option Chan := (operandIn chanNames 0 1 t).map fun v => chanOfBit (decide (v = 1))

/-- The command of a line that is neither a pseudo-instruction nor a directive (R58). -/
def assembleCommand (m : List Char) (ops : List (List Char)) : Option Instr :=
  match ops with
  | [] =>
    if m = "NOP".toList then some .nop
    else if m = "GETLOAD".toList then some .getload
    else if m = "STOP".toList then some .stop
    else none
  | [a] =>
    if m = "FINIT".toList then (chanOperand a).map .finit
    else if m = "SELECT".toList then (operandIn effectNames 0 7 a).map fun v => .select (BitVec.ofInt 3 v)
    else if m = "MUTE".toList then (operandIn [] 0 1 a).map fun v => .mute (decide (v = 1))
    else if m = "GETLEVEL".toList then (operandIn meterNames 0 3 a).map fun v => .getlevel (BitVec.ofInt 2 v)
    else if m = "RDSTAT".toList then (operandIn statusNames 0 255 a).map fun v => .rdstat (BitVec.ofInt 8 v)
    else none
  | [a, b] =>
    if m = "FPROC".toList then
      (chanOperand a).bind fun ch => (operandIn [] (-32768) 32767 b).map fun v => .fproc ch (BitVec.ofInt 16 v)
    else if m = "FDUP".toList then (chanOperand a).bind fun src => (chanOperand b).map fun dst => .fdup src dst
    else none
  | [a, b, c, d] =>
    if m = "FSETP".toList then
      (chanOperand a).bind fun ch => (operandIn modeNames 0 7 b).bind fun mode =>
        (operandIn [] 0 4095 c).bind fun cutoff => (operandIn [] 0 4095 d).map fun res =>
          .fsetp ch (BitVec.ofInt 3 mode) (BitVec.ofInt 12 cutoff) (BitVec.ofInt 12 res)
    else none
  | _ => none

/-- The command of a pseudo-instruction's expansion, written. -/
def issueInstr (i : Instr) : HostStep := .issue (encode i)

/-- Pseudo-instructions (R59), and the directive `.word` of program P4 (95_test_vectors.md section 9). -/
def assemblePseudo (m : List Char) (ops : List (List Char)) : Option (List HostStep) :=
  match ops with
  | [] =>
    if m = "MUTEON".toList then some [issueInstr (.mute true)]
    else if m = "UNMUTE".toList then some [issueInstr (.mute false)]
    else if m = "BYPASS".toList then some [issueInstr (.select 0)]
    else if m = "FINITALL".toList then some [issueInstr (.finit .left), issueInstr (.finit .right)]
    else if m = "FCOPYLR".toList then some [issueInstr (.fdup .left .right)]
    else if m = "SELWAIT".toList then some [.poll (encode (.rdstat 0x01)) 0]
    else none
  | [a] =>
    if m = "MUTEWAIT".toList then
      (operandIn [] 0 3 a).map fun v => [.poll (encode (.rdstat 0x02)) (BitVec.ofInt 32 v)]
    else if m = ".word".toList then
      (operandIn [] 0 4294967295 a).map fun v => [.issue (BitVec.ofInt 32 v)]
    else none
  | [a, b] =>
    if m = "FREAD".toList then
      (operandIn chanNames 0 1 a).bind fun ch => (operandIn [] 0 9 b).map fun k =>
        [issueInstr (.rdstat (BitVec.ofInt 8 (0x20 + 0x10 * ch + k)))]
    else none
  | _ => none

/-- One line of assembler text (R58, R59); an empty line is no step; `none` refuses the line.
A label before the command is refused: the model's choice (notes/assumptions/14.md). -/
def assembleLine (line : List Char) : Option (List HostStep) :=
  let t := tokens line
  if t.1 = [] then some []
  else
    match assembleCommand t.1 t.2 with
    | some i => some [issueInstr i]
    | none => assemblePseudo t.1 t.2

end Sys2Proof.Machine
end

