-- ==== Sys2Proof/Machine/ByteImage.lean ====
section
/-!
DEFINITION. The byte image of a block (20_memory.md R34, R35), for a transport that exchanges bytes: Sample i at byte
offsets 2i and 2i+1, low byte first. No rule of the machine depends on it.
-/

namespace Sys2Proof.Machine

/-- The two bytes of a Sample, low byte first (R34). -/
def bytesOfSample (s : Sample) : List (BitVec 8) := [s.extractLsb' 0 8, s.extractLsb' 8 8]

/-- The byte image of a block (R34). -/
def bytesOfBlock (samples : List Sample) : List (BitVec 8) := samples.flatMap bytesOfSample

/-- The Samples of a byte list, two bytes each. -/
def samplesOfBytes : List (BitVec 8) → List Sample
  | lo :: hi :: rest => (hi ++ lo) :: samplesOfBytes rest
  | _ => []

/-- A transport's block as bytes: a byte length other than 4·F is no valid block, and there is no BLOCK_START for it
(R35). -/
def blockStartOfBytes (frames : Nat) (bytes : List (BitVec 8)) (now : Word) : Option Event :=
  if bytes.length = 4 * frames then some (.blockStart frames (samplesOfBytes bytes) now) else none

end Sys2Proof.Machine
end

