-- ==== Sys2Proof/Safety.lean ====
section
/-!
DEFINITION. What a good state of LadderDSP-D03 is: the invariants the spec states (10_state.md R18, R23, R25, R26;
41_effect_dispatch.md R80), the fatal condition (60_exceptions.md R119) and when an agent has an enabled step
(R120). And what a run is and when it is weakly fair (00_scope.md R5, R6).
-/

namespace Sys2Proof.Machine

/-- |b4| ≤ 10·UNITY (R18). -/
abbrev Filter.Inv (fi : Filter) : Prop := -SAT ≤ fi.b4.toInt ∧ fi.b4.toInt ≤ SAT

/-- muteCount stays in [0, 512]: 512 in PassThrough, 0 in Muted, above 0 on the way to Muted, below 512 on the way to
PassThrough (R25, 90_conflicts.md C3). -/
abbrev Mute.Inv (m : Mute) : Prop :=
  m.count.toNat ≤ 512 ∧ (m.state = .passThrough → m.count = 512) ∧ (m.state = .muted → m.count = 0) ∧
    (m.state = .rampToMute → 0 < m.count.toNat) ∧ (m.state = .rampToUnmute → m.count.toNat < 512)

/-- While a switch is pending, `active` is the old effect before micro-step 1 and Bypass after it (R80). -/
abbrev Dispatcher.Inv (d : Dispatcher) : Prop :=
  (d.selPhase = .p1 → d.active = d.selPrev) ∧ (d.selPhase = .p2 → d.active = .bypass) ∧
    (d.selPhase = .p3 → d.active = .bypass) ∧ (d.selPhase = .p4 → d.active = .bypass)

/-- n ≤ F; Buf and Wet hold 2F Samples each; between blocks every frame is done (R23). -/
abbrev Audio.Inv (a : Audio) : Prop :=
  a.n ≤ a.frames ∧ a.buf.length = 2 * a.frames ∧ a.wet.length = 2 * a.frames ∧ (a.phase = .idle → a.n = a.frames)

/-- Every meter is in 0..32768 (R26). -/
abbrev MetersInv (q : Quad (BitVec 16)) : Prop :=
  q.c0.toNat ≤ 32768 ∧ q.c1.toNat ≤ 32768 ∧ q.c2.toNat ≤ 32768 ∧ q.c3.toNat ≤ 32768

/-- The invariant every step keeps. -/
abbrev State.Inv (s : State) : Prop :=
  s.fi0.Inv ∧ s.fi1.Inv ∧ s.mute.Inv ∧ s.dispatcher.Inv ∧ s.audio.Inv ∧ MetersInv s.peak

/-- The current block carries at most MAX_FRAMES frames (R8, R23). -/
def State.BlockFits (s : State) : Prop := s.audio.frames ≤ Config.params.maxFrames

/-- The fatal condition: a state with fatalFlag = 1 is never a good final state (R119). The machine goes on in it
(notes/assumptions/7.md). -/
abbrev State.Faulted (s : State) : Prop := s.fatalFlag = true

/-- A good state. -/
abbrev State.Good (s : State) : Prop := s.Inv ∧ ¬ s.Faulted

/-- Whether the agent an event names has that step enabled (R60, R70, R71, R81, R106, R120); commands and RESET
always are. -/
def Event.enabled (p : Params) (e : Event) (s : State) : Bool :=
  match e with
  | .command _ => true
  | .blockStart frames samples _ => blockStartEnabled p frames samples s
  | .frame => frameEnabled s
  | .blockEnd _ => blockEndEnabled s
  | .acqTick _ => !s.stopFlag
  | .selStep => decide (s.dispatcher.selPhase ≠ .idle)
  | .reset => true

/-- The four agents (R5). -/
inductive Agent
  | audio
  | acquisition
  | commandPort
  | dispatcher
deriving DecidableEq, Repr, Inhabited

/-- The agent whose step an event is; RESET is no agent's (R5, R57). -/
def Event.agent : Event → Option Agent
  | .command _ => some .commandPort
  | .blockStart _ _ _ => some .audio
  | .frame => some .audio
  | .blockEnd _ => some .audio
  | .acqTick _ => some .acquisition
  | .selStep => some .dispatcher
  | .reset => none

/-- Whether a step needs the outside world to hand something over: a host word (R46), a block (R60), the reset. The
others need nothing but a value that is drawn freely: a timestamp (R8), a reading (R105) (notes/assumptions/11.md). -/
def Event.handedOver : Event → Bool
  | .command _ => true
  | .blockStart _ _ _ => true
  | .frame => false
  | .blockEnd _ => false
  | .acqTick _ => false
  | .selStep => false
  | .reset => true

/-- An agent has an enabled step while the outside world holds out `offers` (R6, R120). -/
def Agent.HasStep (p : Params) (offers : List Event) (a : Agent) (s : State) : Prop :=
  ∃ e : Event, e.agent = some a ∧ e.enabled p s = true ∧ (e.handedOver = true → e ∈ offers)

/-- A run (R5): at every moment one step is taken, and what is handed over is what the outside world holds out then. -/
structure IsRun (p : Params) (offers : Nat → List Event) (events : Nat → Event) (states : Nat → State) : Prop where
  steps : ∀ k, performWith p (events k) (states k) = .next (states (k + 1))
  offered : ∀ k, (events k).handedOver = true → events k ∈ offers k

/-- Weak fairness (R6): an agent whose step stays enabled eventually takes it. -/
def WeaklyFair (p : Params) (offers : Nat → List Event) (events : Nat → Event) (states : Nat → State) : Prop :=
  ∀ (a : Agent) (k : Nat), (∀ j, k ≤ j → a.HasStep p (offers j) (states j)) →
    ∃ j, k ≤ j ∧ (events j).agent = some a ∧ (events j).enabled p (states j) = true

/-- A run that the progress assumption of R6 admits. -/
structure FairRun (p : Params) (offers : Nat → List Event) (events : Nat → Event) (states : Nat → State) : Prop
    extends IsRun p offers events states where
  fair : WeaklyFair p offers events states

end Sys2Proof.Machine
end

