-- ==== Sys2Proof/Certificates/Slice0/Obligations.lean ====
section
/-!
DEFINITION. The statements for the provers, and before them what they are written with (namespace Reference): the
spec's formulas on unbounded integers, with no word arithmetic of the model in them, and the shapes (runs, lanes, the
status table) that the statements quantify over.
-/

namespace Sys2Proof.Reference

open Sys2Proof.Machine

/-- The other filter instance. -/
def other : Chan → Chan
  | .left => .right
  | .right => .left

/-- The number a lane or an instance adds to an index: 0 for L, 1 for R (R33). -/
def laneNumber : Chan → Nat
  | .left => 0
  | .right => 1

/-- floor(v / 2^k): `/` on `Int` rounds toward −∞ for a positive divisor (R10). -/
def floorShift (v : Int) (k : Nat) : Int := v / 2 ^ k

/-- The integer in [−2^31, 2^31) congruent to v modulo 2^32 (R10). -/
def wrap (v : Int) : Int := (v + 2147483648) % 4294967296 - 2147483648

/-- min(max(v, lo), hi) (R10). -/
def clampTo (v lo hi : Int) : Int := min (max v lo) hi

/-- mult on integers (R83). -/
def mulFixed (x y : Int) : Int := wrap (floorShift (x * y) 23)

/-- Coefficient p as an exact integer: no step wraps (R90). -/
def exactP (c : Int) : Int :=
  c * 2048 + floorShift (floorShift (6710886 * (c * 2048)) 23 * (8388608 - c * 2048)) 23

/-- Coefficient f as an exact integer (R90). -/
def exactF (c : Int) : Int := 2 * exactP c - 8388608

/-- Coefficient qfb as an exact integer (R90). -/
def exactQ (c r : Int) : Int :=
  floorShift (r * 2048 * (8388608 + floorShift (floorShift ((8388608 - c * 2048) *
    (8388608 - (8388608 - c * 2048) +
      floorShift (46976204 * floorShift ((8388608 - c * 2048) * (8388608 - c * 2048)) 23) 23)) 23) 1)) 23

/-- The output gain as an exact integer (R90). -/
def exactGain (c r : Int) : Int :=
  8388608 + r * 2048 + floorShift (2 * (r * 2048) * (8388608 - c * 2048)) 23

/-- One stage of the ladder on integers (R94 lines 3 to 6). -/
def stageFixed (p f prevSum old : Int) : Int := wrap (mulFixed (wrap prevSum) p - mulFixed old f)

/-- The registers and the output of one Sample, on integers (R94, R95). -/
structure Ladder where
  x : Int
  b1 : Int
  b2 : Int
  b3 : Int
  b4 : Int

/-- Lines 1 to 8 of R94 on the integers the registers stand for. -/
def ladder (fi : Filter) (sample : Int) : Ladder :=
  let p := fi.p.toInt
  let f := fi.f.toInt
  let x := wrap (sample * 256 - mulFixed fi.q.toInt fi.b4.toInt)
  let b1 := stageFixed p f (x + fi.b0.toInt) fi.b1.toInt
  let b2 := stageFixed p f (b1 + fi.b1.toInt) fi.b2.toInt
  let b3 := stageFixed p f (b2 + fi.b2.toInt) fi.b3.toInt
  let u := stageFixed p f (b3 + fi.b3.toInt) fi.b4.toInt
  let clipped := wrap (u - mulFixed (mulFixed (mulFixed u u) u) 1398101)
  { x := x, b1 := b1, b2 := b2, b3 := b3, b4 := clampTo clipped (-83886080) 83886080 }

/-- The output tap of a filtering mode (R95). -/
def tapFixed (mode : FilterMode) (gain : Int) (l : Ladder) : Int :=
  match mode with
  | .lowpass => mulFixed gain l.b4
  | .highpass => wrap (l.x - mulFixed gain l.b4)
  | .bandpass => mulFixed gain (wrap (3 * wrap (l.b3 - l.b4)))
  | .bypass => 0
  | .disabled => 0

/-- The output conversion (R88). -/
def outputSample (y : Int) : Int := clampTo (floorShift (wrap (y + 128)) 8) (-32768) 32767

/-- A mode in which the ladder runs (R94). -/
def Filtering (m : FilterMode) : Prop := m = .lowpass ∨ m = .highpass ∨ m = .bandpass

/-- `fproc` over one lane's Samples in order (R67). -/
def runLane : Filter → List Sample → Filter × List Sample
  | fi, [] => (fi, [])
  | fi, x :: xs => ((runLane (fi.fproc x).1 xs).1, (fi.fproc x).2 :: (runLane (fi.fproc x).1 xs).2)

/-- One lane of an interleaved block of `frames` frames (R33). -/
def lane (ch : Chan) (frames : Nat) (block : List Sample) : List Sample :=
  (List.range frames).map fun k => block.getD (2 * k + laneNumber ch) 0

/-- The status map of R30 and R114, listed number by number. -/
def statusTable (s : State) : List (Nat × Word) :=
  [(0x00, match s.dispatcher.active with
      | .bypass => 0 | .vca => 1 | .cleanDelay => 2 | .lowpass => 3 | .highpass => 4 | .bandpass => 5),
   (0x01, match s.dispatcher.selPhase with | .idle => 0 | .p1 => 1 | .p2 => 2 | .p3 => 3 | .p4 => 4),
   (0x02, match s.mute.state with | .passThrough => 0 | .rampToMute => 1 | .muted => 2 | .rampToUnmute => 3),
   (0x03, BitVec.ofNat 32 s.mute.count.toNat),
   (0x04, BitVec.ofNat 32 s.acq.val.c0.toNat), (0x05, BitVec.ofNat 32 s.acq.val.c1.toNat),
   (0x06, BitVec.ofNat 32 s.acq.val.c2.toNat), (0x07, BitVec.ofNat 32 s.acq.val.c3.toNat),
   (0x08, BitVec.ofNat 32 s.acq.raw.c0.toNat), (0x09, BitVec.ofNat 32 s.acq.raw.c1.toNat),
   (0x0A, BitVec.ofNat 32 s.acq.raw.c2.toNat), (0x0B, BitVec.ofNat 32 s.acq.raw.c3.toNat),
   (0x0C, s.acq.state.c0), (0x0D, s.acq.state.c1), (0x0E, s.acq.state.c2), (0x0F, s.acq.state.c3),
   (0x10, s.lm.load),
   (0x11, BitVec.ofNat 32 ((if s.stopFlag then 1 else 0) + (if s.fatalFlag then 2 else 0) +
      (if s.audio.phase = .inBlock then 4 else 0)))] ++
  [(0x12, BitVec.ofNat 32 s.audio.prevWet.toNat), (0x13, BitVec.ofNat 32 s.audio.currWet.toNat),
   (0x14, BitVec.ofNat 32 s.acq.chan.val), (0x15, BitVec.ofNat 32 s.lm.count.val),
   (0x16, s.lm.tsPStart), (0x17, s.lm.tsEntry), (0x18, s.lm.tsExit)] ++
  ([(0x20, s.fi0), (0x30, s.fi1)].flatMap fun e =>
    [(e.1, e.2.f), (e.1 + 1, e.2.p), (e.1 + 2, e.2.q), (e.1 + 3, e.2.gain), (e.1 + 4, e.2.b0), (e.1 + 5, e.2.b1),
     (e.1 + 6, e.2.b2), (e.1 + 7, e.2.b3), (e.1 + 8, e.2.b4),
     (e.1 + 9, match e.2.mode with | .lowpass => 0 | .highpass => 1 | .bandpass => 2 | .bypass => 3 | .disabled => 4)])

/-- The bits of a command word that are not reserved, by opcode (R47 to R52). -/
def fieldMask (op : Nat) : Word :=
  match op with
  | 0x1 => 0xFFFFFFFF
  | 0x2 => 0xF800FFFF
  | 0x3 => 0xFC000000
  | 0x4 => 0xF8000000
  | 0x5 => 0xF0000007
  | 0x6 => 0xF0000001
  | 0x7 => 0xF0000003
  | 0x9 => 0xF00000FF
  | _ => 0xF0000000

/-- A run over a list of events, counting the FRAME steps that were enabled: the final state and the count, or `none`
where a step stopped. -/
def runCountingFrames : List Event → State → Nat → Option (State × Nat)
  | [], s, k => some (s, k)
  | e :: es, s, k =>
    match perform e s with
    | .next t => runCountingFrames es t (if e = .frame ∧ frameEnabled s = true then k + 1 else k)
    | .fault _ => none
    | .refused _ => none

/-- An event that neither resets the machine nor is a MUTE command. -/
def LeavesMuteAlone (e : Event) : Prop :=
  e ≠ .reset ∧ ∀ w on, e = .command w → decode w ≠ .mute on

/-- Two states with the same lane: the lane's filter instance, its elements of Buf and Wet and its meters, and
everything the lanes share (R74). Nothing is said of the other lane. -/
structure SameLane (ch : Chan) (s s' : State) : Prop where
  filter : s.fi ch = s'.fi ch
  active : s.dispatcher.active = s'.dispatcher.active
  phase : s.audio.phase = s'.audio.phase
  frames : s.audio.frames = s'.audio.frames
  n : s.audio.n = s'.audio.n
  prevWet : s.audio.prevWet = s'.audio.prevWet
  currWet : s.audio.currWet = s'.audio.currWet
  mute : s.mute = s'.mute
  acq : s.acq = s'.acq
  stopFlag : s.stopFlag = s'.stopFlag
  buf : ∀ k : Nat, s.audio.buf[2 * k + laneNumber ch]? = s'.audio.buf[2 * k + laneNumber ch]?
  wet : ∀ k : Nat, s.audio.wet[2 * k + laneNumber ch]? = s'.audio.wet[2 * k + laneNumber ch]?
  inMeter : s.peak.get (inMeter ch) = s'.peak.get (inMeter ch)
  outMeter : s.peak.get (outMeter ch) = s'.peak.get (outMeter ch)

/-- Two steps that offer the same lane: the same event, or two blocks of the same frame count and timestamp whose
Samples agree on the lane. -/
def SameLaneEvent (ch : Chan) (e e' : Event) : Prop :=
  (e = .frame ∧ e' = .frame) ∨ (∃ now, e = .blockEnd now ∧ e' = .blockEnd now) ∨
  ∃ frames xs xs' now, e = .blockStart frames xs now ∧ e' = .blockStart frames xs' now ∧
    xs.length = xs'.length ∧ ∀ k : Nat, xs[2 * k + laneNumber ch]? = xs'[2 * k + laneNumber ch]?

end Sys2Proof.Reference

open Sys2Proof Sys2Proof.Machine Sys2Proof.Reference

/-! ## The step, decoding and encoding -/

/-- R46: the command port executes one word per step. When the oldest pending step is a command word, `step` is `exec`
of the decoded command, in the state with that word taken. (`pending` is the model's own: notes/assumptions/1.md.) -/
def Obligations.StepRunsTheDecodedCommand : Prop :=
  ∀ (s : State) (w : Word) (rest : List Event), s.pending = .command w :: rest →
    step s = exec (decode w) { s with pending := rest }

/-- R5: a step is one step of one agent, the one the oldest pending event names; with nothing pending it is a free
choice. The model's choice of form: notes/assumptions/1.md and 2.md. -/
def Obligations.StepTakesThePendingOrAFreelyChosenEvent : Prop :=
  (∀ (s : State) (e : Event) (rest : List Event), s.pending = e :: rest →
    step s = perform e { s with pending := rest }) ∧
  (∀ s : State, s.pending = [] → step s = perform (Config.offer s.draws) { s with draws := s.draws + 1 })

/-- The interface of notes/assumptions/3.md: a word placed by `withFetchWord` is the very next command, and leaves
nothing behind. -/
def Obligations.FetchedWordIsTheNextCommand : Prop :=
  ∀ (s : State) (w : Word), step (s.withFetchWord 32 w.toNat) = exec (decode w) s

/-- R5: a run is any interleaving of the agents' steps, and every finite part of one is a run of `step`: with the run's
first k events pending, k steps reach the run's k-th state. (`pending` is the model's own: notes/assumptions/1.md.) -/
def Obligations.EveryInterleavingIsARunOfStep : Prop :=
  ∀ (offers : Nat → List Event) (events : Nat → Event) (states : Nat → State) (rest : List Event) (k : Nat),
    IsRun Config.params offers events states →
    core.run k { states 0 with pending := (List.range k).map events ++ rest } = .next { states k with pending := rest }

/-- Words of 95_test_vectors.md section 8, one of every format at least. -/
def Obligations.SpecWordsDecode : Prop :=
  decode 0x00000000 = .nop ∧ decode 0x10800800 = .fsetp .left 0 2048 2048 ∧ decode 0x1C000FFF = .fsetp .right 4 0 4095 ∧
  decode 0x17FFFFFF = .fsetp .left 7 4095 4095 ∧ decode 0x20004000 = .fproc .left 16384 ∧
  decode 0x2FFF8000 = .fproc .right 0x8000 ∧ decode 0x34000000 = .fdup .left .right ∧
  decode 0x38000000 = .fdup .right .left ∧ decode 0x48000000 = .finit .right ∧ decode 0x5FFFFFF8 = .select 0 ∧
  decode 0x50000005 = .select 5 ∧ decode 0x60000001 = .mute true ∧ decode 0x7000000E = .getlevel 2 ∧
  decode 0x80000000 = .getload ∧ decode 0x900000FF = .rdstat 0xFF ∧ decode 0xA0000000 = .stop ∧
  decode 0xB0000000 = .reservedB ∧ decode 0xC0000000 = .reservedC ∧ decode 0xD0000000 = .reservedD ∧
  decode 0xE0000000 = .reservedE ∧ decode 0xFFFFFFFF = .reservedF

/-- Decoding gives back every command, every operand at every value its field admits (R47 to R54). -/
def Obligations.DecodeInvertsEncode : Prop := ∀ i : Instr, decode (encode i) = i

/-- The decoder reads every bit that is not reserved and no other: encoding what a word decodes to gives the word with
its reserved bits cleared (R47 to R53, R55). -/
def Obligations.EncodeOfDecodeClearsReservedBits : Prop :=
  ∀ w : Word, encode (decode w) = w &&& fieldMask (w.toNat / 2 ^ 28)

/-! ## The ladder filter -/

/-- R83: mult is the exact product floored by 2^23 and wrapped to 32 bits; where the floor fits it is the floor. -/
def Obligations.MultFloorsTheProductAndWraps : Prop :=
  (∀ x y : Word, (mult x y).toInt = wrap (floorShift (x.toInt * y.toInt) 23)) ∧
  (∀ x y : Word, -2147483648 ≤ floorShift (x.toInt * y.toInt) 23 → floorShift (x.toInt * y.toInt) 23 < 2147483648 →
    (mult x y).toInt = floorShift (x.toInt * y.toInt) 23) ∧
  (∀ y : Word, mult 8388608 y = y ∧ mult (-8388608) y = -y ∧ mult y 0 = 0)

/-- R90: FSETP with a mode of R17 completes and stores the coefficients, each the exact integer of the formulas with no
step wrapping, in the ranges R90 gives (fc and q0 included); FI[ch]'s taps, the other instance and all else stay
(R89). The ranges and the absence of a wrap are the spec's own inference (R90: "by interval arithmetic"). -/
def Obligations.FsetpStoresExactCoefficients : Prop :=
  ∀ (ch : Chan) (mode : BitVec 3) (c r : Value12) (s : State), mode.toNat ≤ 4 →
    ∃ t, exec (.fsetp ch mode c r) s = .next t ∧
      (t.fi ch).p.toInt = exactP c.toNat ∧ (t.fi ch).f.toInt = exactF c.toNat ∧
      (t.fi ch).q.toInt = exactQ c.toNat r.toNat ∧ (t.fi ch).gain.toInt = exactGain c.toNat r.toNat ∧
      (c.toNat * 2048 ≤ 8386560 ∧ (2048 : Int) ≤ 8388608 - c.toNat * 2048) ∧
      (0 ≤ (t.fi ch).p.toInt ∧ (t.fi ch).p.toInt < 8388608) ∧
      (-8388608 ≤ (t.fi ch).f.toInt ∧ (t.fi ch).f.toInt < 8388608) ∧
      (0 ≤ (t.fi ch).q.toInt ∧ 10 * (t.fi ch).q.toInt ≤ 38 * 8388608) ∧
      (8388608 ≤ (t.fi ch).gain.toInt ∧ (t.fi ch).gain.toInt ≤ 4 * 8388608) ∧
      t.fi ch = { s.fi ch with p := (t.fi ch).p, f := (t.fi ch).f, q := (t.fi ch).q, gain := (t.fi ch).gain,
                               mode := (t.fi ch).mode } ∧
      t.fi (other ch) = s.fi (other ch) ∧ t = { s with fi0 := t.fi0, fi1 := t.fi1 }

/-- R91: the auto-override. From cutoff 3687 up (fc above 0.9·UNITY) a requested Lowpass or Highpass gives Bypass and
any other mode Disabled; below it the mode is the requested one. The coefficients are stored in both branches; that they
are the exact integers is the spec's own inference (R90: "none of these steps wraps", marked derived). -/
def Obligations.FsetpOverridesTheModeNearNyquist : Prop :=
  ∀ (ch : Chan) (mode : BitVec 3) (c r : Value12) (s : State), mode.toNat ≤ 4 →
    ∃ t, exec (.fsetp ch mode c r) s = .next t ∧
      (3687 ≤ c.toNat → mode.toNat ≤ 1 → (t.fi ch).mode = .bypass) ∧
      (3687 ≤ c.toNat → 2 ≤ mode.toNat → (t.fi ch).mode = .disabled) ∧
      (c.toNat < 3687 → (t.fi ch).mode.code = mode.toNat) ∧
      (7549747 < (c.toNat : Int) * 2048 ↔ 3687 ≤ c.toNat) ∧
      (t.fi ch).p.toInt = exactP c.toNat ∧ (t.fi ch).f.toInt = exactF c.toNat ∧
      (t.fi ch).q.toInt = exactQ c.toNat r.toNat ∧ (t.fi ch).gain.toInt = exactGain c.toNat r.toNat

/-- R55 and R89: FSETP with mode 5, 6 or 7 completes and changes nothing. -/
def Obligations.FsetpWithAReservedModeIsIgnored : Prop :=
  ∀ (ch : Chan) (mode : BitVec 3) (c r : Value12) (s : State), 5 ≤ mode.toNat →
    exec (.fsetp ch mode c r) s = .next s

/-- R93 with R92: in mode Bypass FPROC answers the input Sample, in Disabled 0; RESULT is the only thing written. -/
def Obligations.FprocInBypassAndDisabled : Prop :=
  ∀ (ch : Chan) (x : Sample) (s : State),
    ((s.fi ch).mode = .bypass → exec (.fproc ch x) s = .next { s with result := BitVec.ofInt 32 x.toInt }) ∧
    ((s.fi ch).mode = .disabled → exec (.fproc ch x) s = .next { s with result := 0 })

/-- R92, R94, R95: in a filtering mode FPROC completes, RESULT is the output Sample, the registers of FI[ch] are those
of the ladder computed on integers with the wraps R84 and R94 name, b4 is saturated, t1 holds the old b3 and t2 the old
b2; coefficients, mode, the other instance and all else stay. -/
def Obligations.FprocRunsTheLadder : Prop :=
  ∀ (ch : Chan) (x : Sample) (s : State), Filtering (s.fi ch).mode →
    ∃ t, exec (.fproc ch x) s = .next t ∧
      t.result.toInt =
        outputSample (tapFixed (s.fi ch).mode (s.fi ch).gain.toInt (ladder (s.fi ch) x.toInt)) ∧
      (t.fi ch).b0.toInt = (ladder (s.fi ch) x.toInt).x ∧ (t.fi ch).b1.toInt = (ladder (s.fi ch) x.toInt).b1 ∧
      (t.fi ch).b2.toInt = (ladder (s.fi ch) x.toInt).b2 ∧ (t.fi ch).b3.toInt = (ladder (s.fi ch) x.toInt).b3 ∧
      (t.fi ch).b4.toInt = (ladder (s.fi ch) x.toInt).b4 ∧
      -83886080 ≤ (t.fi ch).b4.toInt ∧ (t.fi ch).b4.toInt ≤ 83886080 ∧
      t.fi ch = { s.fi ch with b0 := (t.fi ch).b0, b1 := (t.fi ch).b1, b2 := (t.fi ch).b2, b3 := (t.fi ch).b3,
                               b4 := (t.fi ch).b4, t1 := (s.fi ch).b3, t2 := (s.fi ch).b2 } ∧
      t.fi (other ch) = s.fi (other ch) ∧ t = { s with fi0 := t.fi0, fi1 := t.fi1, result := t.result }

/-- R98, for a run of any length: after FINIT and FSETP Lowpass, 0, 0 every FPROC answers 0, whatever the input.
The spec's own inference (R98 marks it so). The list `pending` is the model's own (notes/assumptions/1.md). -/
def Obligations.ClosedLowpassAnswersZeroForEver : Prop :=
  ∀ (ch : Chan) (xs : List Sample) (x : Sample) (s : State) (rest : List Event),
    s.pending = .command (encode (.finit ch)) :: .command (encode (.fsetp ch 0 0 0)) ::
      ((xs.map fun y => Event.command (encode (.fproc ch y))) ++ .command (encode (.fproc ch x)) :: rest) →
    ∃ t, core.run (xs.length + 3) s = .next t ∧ t.result = 0 ∧
      (t.fi ch).b1 = 0 ∧ (t.fi ch).b2 = 0 ∧ (t.fi ch).b3 = 0 ∧ (t.fi ch).b4 = 0 ∧
      (t.fi ch).b0.toInt = x.toInt * 256 ∧ t.pending = rest

/-- R96: FDUP completes, copies f, p, q, gain and mode, keeps the taps of dst and all else; src = dst changes
nothing. -/
def Obligations.FdupCopiesTheSettingsOnly : Prop :=
  ∀ (src dst : Chan) (s : State),
    (∃ t, exec (.fdup src dst) s = .next t ∧
      t.fi dst = { s.fi dst with f := (s.fi src).f, p := (s.fi src).p, q := (s.fi src).q, gain := (s.fi src).gain,
                                 mode := (s.fi src).mode } ∧
      t.fi (other dst) = s.fi (other dst) ∧ t = { s with fi0 := t.fi0, fi1 := t.fi1 }) ∧
    (src = dst → exec (.fdup src dst) s = .next s)

/-- R97: FINIT completes, clears every register of FI[ch] and sets mode Disabled; all else stays. -/
def Obligations.FinitClearsTheInstance : Prop :=
  ∀ (ch : Chan) (s : State),
    ∃ t, exec (.finit ch) s = .next t ∧
      t.fi ch = { f := 0, p := 0, q := 0, gain := 0, b0 := 0, b1 := 0, b2 := 0, b3 := 0, b4 := 0, t1 := 0, t2 := 0,
                  mode := .disabled } ∧
      t.fi (other ch) = s.fi (other ch) ∧ t = { s with fi0 := t.fi0, fi1 := t.fi1 }

/-! ## Effect dispatch -/

/-- R75: SELECT with idx ≤ 5 and no switch pending is accepted; every other SELECT is ignored. It completes either
way and writes nothing else. -/
def Obligations.SelectIsAcceptedOrIgnored : Prop :=
  ∀ (idx : BitVec 3) (s : State),
    (idx.toNat ≤ 5 → s.dispatcher.selPhase = .idle →
      ∃ t, exec (.select idx) s = .next t ∧ t.dispatcher.selPhase = .p1 ∧
        t.dispatcher.selPrev = s.dispatcher.active ∧ t.dispatcher.selNew.code = idx.toNat ∧
        t.dispatcher.active = s.dispatcher.active ∧ t = { s with dispatcher := t.dispatcher }) ∧
    (6 ≤ idx.toNat ∨ s.dispatcher.selPhase ≠ .idle → exec (.select idx) s = .next s)

/-- R76, R77, R78, R79, R81: SEL_STEP performs exactly the micro-step the phase names, for every choice of the
parameters. -/
def Obligations.SelStepPerformsTheMicroStepOfThePhase : Prop :=
  ∀ (p : Params) (s : State),
    (s.dispatcher.selPhase = .p1 → performWith p .selStep s =
      .next { s with dispatcher := { s.dispatcher with active := .bypass, selPhase := .p2 } }) ∧
    (s.dispatcher.selPhase = .p2 → performWith p .selStep s =
      .next { s with dispatcher := { s.dispatcher with selPhase := .p3 } }) ∧
    (s.dispatcher.selPhase = .p3 →
      (s.dispatcher.selNew = .bypass → performWith p .selStep s =
        .next { s with dispatcher := { s.dispatcher with selPhase := .p4 } }) ∧
      (3 ≤ s.dispatcher.selNew.code → performWith p .selStep s =
        .next { s with fi0 := Filter.cleared, fi1 := Filter.cleared,
                       dispatcher := { s.dispatcher with selPhase := .p4 } }) ∧
      (s.dispatcher.selNew = .vca → performWith p .selStep s =
        .next (if p.vcaInitOk = true
          then { s with vcaState := Config.vcaInit, dispatcher := { s.dispatcher with selPhase := .p4 } }
          else { s with fatalFlag := true, dispatcher := { s.dispatcher with selPhase := .idle } })) ∧
      (s.dispatcher.selNew = .cleanDelay → performWith p .selStep s =
        .next (if p.delayInitOk = true
          then { s with delayState := Config.delayInit, dispatcher := { s.dispatcher with selPhase := .p4 } }
          else { s with fatalFlag := true, dispatcher := { s.dispatcher with selPhase := .idle } }))) ∧
    (s.dispatcher.selPhase = .p4 → performWith p .selStep s =
      .next { s with dispatcher := { s.dispatcher with active := s.dispatcher.selNew, selPhase := .idle } })

/-- R80: while a switch is pending, every step but RESET leaves `active` at the old effect, Bypass or the new one, and
the new one only by micro-step 4; what the switch is from and to does not change while it stays pending.
The spec's own inference (R80 marks it so). -/
def Obligations.PendingSwitchShowsOldBypassOrNew : Prop :=
  ∀ (e : Event) (s t : State), s.Inv → s.dispatcher.selPhase ≠ .idle → e ≠ .reset → perform e s = .next t →
    (t.dispatcher.active = s.dispatcher.selPrev ∨ t.dispatcher.active = .bypass ∨
      t.dispatcher.active = s.dispatcher.selNew) ∧
    (t.dispatcher.active ≠ s.dispatcher.active →
      t.dispatcher.active = .bypass ∨ (e = .selStep ∧ s.dispatcher.selPhase = .p4)) ∧
    (t.dispatcher.selPhase ≠ .idle →
      t.dispatcher.selPrev = s.dispatcher.selPrev ∧ t.dispatcher.selNew = s.dispatcher.selNew)

/-- R75 to R79 in one run: SELECT idx and four SEL_STEPs end with Idle and the requested effect active (its filter
instances cleared), or, for an opaque effect whose init fails only, with fatalFlag set and Bypass active (R119).
After a failed init the switch is already Idle, and the fourth SEL_STEP is not enabled (R81): that it is passed over is
the model's choice (notes/assumptions/4.md), as is the list `pending` (notes/assumptions/1.md). -/
def Obligations.SelectAndFourMicroStepsCompleteTheSwitch : Prop :=
  ∀ (idx : BitVec 3) (s : State) (rest : List Event), idx.toNat ≤ 5 → s.dispatcher.selPhase = .idle →
    s.pending = .command (encode (.select idx)) :: .selStep :: .selStep :: .selStep :: .selStep :: rest →
    ∃ t, core.run 5 s = .next t ∧ t.dispatcher.selPhase = .idle ∧ t.pending = rest ∧
      ((t.dispatcher.active.code = idx.toNat ∧ t.fatalFlag = s.fatalFlag ∧
          (idx.toNat = 1 → Config.params.vcaInitOk = true) ∧ (idx.toNat = 2 → Config.params.delayInitOk = true) ∧
          (3 ≤ idx.toNat → t.fi0 = Filter.cleared ∧ t.fi1 = Filter.cleared)) ∨
        (((idx.toNat = 1 ∧ Config.params.vcaInitOk = false) ∨ (idx.toNat = 2 ∧ Config.params.delayInitOk = false)) ∧
          t.dispatcher.active = .bypass ∧ t.fatalFlag = true))

/-- R81 with R6: under weak fairness a pending switch completes, whatever the other agents do and whatever the stop
flag says. The spec's own inference (R81 marks it so); what weak fairness covers: notes/assumptions/11.md. -/
def Obligations.PendingSwitchCompletesUnderWeakFairness : Prop :=
  ∀ (p : Params) (offers : Nat → List Event) (events : Nat → Event) (states : Nat → State) (k : Nat),
    FairRun p offers events states → ∃ j, k ≤ j ∧ (states j).dispatcher.selPhase = .idle

/-! ## Mute -/

/-- R100: MUTE completes; it starts a ramp only from the two resting states and is ignored otherwise. -/
def Obligations.MuteStartsARampOnlyFromRest : Prop :=
  ∀ (on : Bool) (s : State),
    (on = true → s.mute.state = .passThrough →
      exec (.mute on) s = .next { s with mute := { state := .rampToMute, count := 512 } }) ∧
    (on = false → s.mute.state = .muted →
      exec (.mute on) s = .next { s with mute := { state := .rampToUnmute, count := 0 } }) ∧
    (¬(on = true ∧ s.mute.state = .passThrough) → ¬(on = false ∧ s.mute.state = .muted) →
      exec (.mute on) s = .next s)

/-- R102: for every gain numerator of R101 the muted Sample is v·g floored by 512. That it is never larger than v in
magnitude, v itself at 512 and 0 at 0, are inferences (R102 marks the last two as its own). -/
def Obligations.MuteApplyFloorsTheScaledSample : Prop :=
  ∀ (v : Sample) (g : Nat), g ≤ 512 →
    (muteApply v g).toInt = floorShift (v.toInt * g) 9 ∧ (muteApply v g).toInt.natAbs ≤ v.toInt.natAbs ∧
    muteApply v 512 = v ∧ muteApply v 0 = 0

/-- R101: the gain numerator of each mute state, at most 512 under the invariant. -/
def Obligations.MuteGainNumeratorByState : Prop :=
  ∀ m : Mute, m.Inv →
    (m.state = .passThrough → m.gainNum = 512) ∧ (m.state = .rampToMute → m.gainNum = m.count.toNat) ∧
    (m.state = .muted → m.gainNum = 0) ∧ (m.state = .rampToUnmute → m.gainNum = m.count.toNat) ∧ m.gainNum ≤ 512

/-- R104: from a ramp just started, whatever the agents do in between (but no RESET and no further MUTE: that a MUTE
inside a ramp is ignored is MuteStartsARampOnlyFromRest), the machine
has counted exactly the enabled FRAME steps, is Muted (or PassThrough) from the 512th on and not before.
The spec's own inference (R104 marks it so). -/
def Obligations.MuteRampTakesExactly512Frames : Prop :=
  ∀ (es : List Event) (s t : State) (k : Nat), (∀ e ∈ es, LeavesMuteAlone e) →
    runCountingFrames es s 0 = some (t, k) →
    (s.mute = { state := .rampToMute, count := 512 } →
      t.mute = if k < 512 then { state := .rampToMute, count := BitVec.ofNat 10 (512 - k) }
        else { state := .muted, count := 0 }) ∧
    (s.mute = { state := .rampToUnmute, count := 0 } →
      t.mute = if k < 512 then { state := .rampToUnmute, count := BitVec.ofNat 10 k }
        else { state := .passThrough, count := 512 })

/-! ## The audio frame processor -/

/-- R68: the wet gain is the interpolation truncated toward zero; it starts at prevWet, lies between prevWet and
currWet, so in 0..4095, and so does the dry gain 4095 − w; with equal mix values it is constant. -/
def Obligations.WetGainInterpolatesBetweenTheMixValues : Prop :=
  ∀ (a b : Value12) (n frames : Nat), n < frames →
    wetGain a b n frames = a.toNat + Int.tdiv (n * ((b.toNat : Int) - a.toNat)) frames ∧
    wetGain a b 0 frames = a.toNat ∧
    min (a.toNat : Int) b.toNat ≤ wetGain a b n frames ∧ wetGain a b n frames ≤ max (a.toNat : Int) b.toNat ∧
    0 ≤ wetGain a b n frames ∧ wetGain a b n frames ≤ 4095 ∧
    0 ≤ 4095 - wetGain a b n frames ∧ 4095 - wetGain a b n frames ≤ 4095 ∧ (a = b → wetGain a b n frames = a.toNat)

/-- R69: the mixed Sample is the weighted sum floored by 4096; it lies in [-32760, 32759], so `sat16` never changes
it (the spec's own inference, marked so in R69). -/
def Obligations.MixFloorsAndNeverSaturates : Prop :=
  ∀ (w : Int) (wet dry : Sample), 0 ≤ w → w ≤ 4095 →
    (mix w wet dry).toInt = floorShift (w * wet.toInt + (4095 - w) * dry.toInt) 12 ∧
    -32760 ≤ (mix w wet dry).toInt ∧ (mix w wet dry).toInt ≤ 32759

/-- R70: an enabled FRAME completes: each lane's element 2n + c of Buf becomes the muted mix of its wet and dry
Samples under the frame's one wet gain and one mute gain, and raises its output meter; every other element of Buf, the
input meters and all else stay; the mute machine advances once; n moves on. -/
def Obligations.FrameMixesMutesAndMetersBothLanes : Prop :=
  ∀ s : State, s.Inv → s.audio.phase = .inBlock → s.audio.n < s.audio.frames →
    ∃ t, perform .frame s = .next t ∧
      (∀ (ch : Chan) (wet dry : Sample), s.audio.wet[2 * s.audio.n + laneNumber ch]? = some wet →
        s.audio.buf[2 * s.audio.n + laneNumber ch]? = some dry →
        ∃ o, o = muteApply (mix (wetGain s.audio.prevWet s.audio.currWet s.audio.n s.audio.frames) wet dry)
            s.mute.gainNum ∧
          t.audio.buf[2 * s.audio.n + laneNumber ch]? = some o ∧
          (t.peak.get (outMeter ch)).toNat = max (s.peak.get (outMeter ch)).toNat o.toInt.natAbs ∧
          t.peak.get (inMeter ch) = s.peak.get (inMeter ch)) ∧
      (∀ i : Nat, i ≠ 2 * s.audio.n → i ≠ 2 * s.audio.n + 1 → t.audio.buf[i]? = s.audio.buf[i]?) ∧
      t.mute = s.mute.advance ∧
      t = { s with audio := { s.audio with buf := t.audio.buf, n := s.audio.n + 1 }, mute := t.mute, peak := t.peak }

/-- R103: the advance of the mute machine that a FRAME step makes. -/
def Obligations.MuteAdvanceCountsAndEndsTheRamp : Prop :=
  ∀ m : Mute, m.Inv →
    (m.state = .rampToMute → m.advance.count.toNat = m.count.toNat - 1 ∧
      m.advance.state = if m.count.toNat = 1 then .muted else .rampToMute) ∧
    (m.state = .rampToUnmute → m.advance.count.toNat = m.count.toNat + 1 ∧
      m.advance.state = if m.count.toNat = 511 then .passThrough else .rampToUnmute) ∧
    (m.state = .passThrough ∨ m.state = .muted → m.advance = m)

/-- R60, R61, R62 (without the effect's own writes): an admitted block is taken: the load monitor shifts its
timestamps, F, n, Buf and the mix value are set, the input meters hold the absolute peaks, the wet block has 2F
Samples, the block is in progress; the output meters, prevWet, the mute machine, the dispatcher, the control channels,
RESULT and the flags stay. -/
def Obligations.BlockStartTakesAnAdmittedBlock : Prop :=
  ∀ (p : Params) (frames : Nat) (xs : List Sample) (now : Word) (s : State),
    s.audio.phase = .idle → s.stopFlag = false → frames ≤ p.maxFrames → xs.length = 2 * frames →
    ∃ t, performWith p (.blockStart frames xs now) s = .next t ∧
      t.lm = { s.lm with tsPStart := s.lm.tsEntry, tsEntry := now, count := t.lm.count } ∧
      t.lm.count.val = min (s.lm.count.val + 1) 2 ∧
      t.audio = { s.audio with phase := .inBlock, frames := frames, n := 0, buf := xs, wet := t.audio.wet,
                               currWet := s.acq.val.get p.wetChannel } ∧
      t.audio.wet.length = 2 * frames ∧
      (∀ ch : Chan,
        (s.peak.get (inMeter ch)).toNat ≤ (t.peak.get (inMeter ch)).toNat ∧
        (∀ (k : Nat) (x : Sample), k < frames → xs[2 * k + laneNumber ch]? = some x →
          x.toInt.natAbs ≤ (t.peak.get (inMeter ch)).toNat) ∧
        (t.peak.get (inMeter ch) = s.peak.get (inMeter ch) ∨
          ∃ (k : Nat) (x : Sample), k < frames ∧ xs[2 * k + laneNumber ch]? = some x ∧
            (t.peak.get (inMeter ch)).toNat = x.toInt.natAbs) ∧
        t.peak.get (outMeter ch) = s.peak.get (outMeter ch)) ∧
      t = { s with lm := t.lm, audio := t.audio, peak := t.peak, fi0 := t.fi0, fi1 := t.fi1, vcaState := t.vcaState,
                   delayState := t.delayState }

/-- R64: the Bypass effect copies the block and writes no other state (the load monitor, the sequencer and the input
meters are BLOCK_START's own writes), and a Bypass block's Samples mix to
floor(4095·x / 4096) at every wet gain (the spec's own inference, marked so in R64). -/
def Obligations.BypassEffectCopiesTheBlock : Prop :=
  (∀ (p : Params) (frames : Nat) (xs : List Sample) (now : Word) (s : State),
    s.audio.phase = .idle → s.stopFlag = false → frames ≤ p.maxFrames → xs.length = 2 * frames →
    s.dispatcher.active = .bypass →
    ∃ t, performWith p (.blockStart frames xs now) s = .next t ∧ t.audio.wet = xs ∧
      t = { s with lm := t.lm, audio := t.audio, peak := t.peak }) ∧
  (∀ (w : Int) (x : Sample), 0 ≤ w → w ≤ 4095 → (mix w x x).toInt = floorShift (4095 * x.toInt) 12)

/-- R65: an opaque effect writes the wet block and its own hidden state, and no other state. The two functions are
free parameters (notes/assumptions/6.md). -/
def Obligations.OpaqueEffectsWriteOnlyTheirOwnState : Prop :=
  ∀ (p : Params) (frames : Nat) (xs : List Sample) (now : Word) (s : State),
    s.audio.phase = .idle → s.stopFlag = false → frames ≤ p.maxFrames → xs.length = 2 * frames →
    (s.dispatcher.active = .vca →
      ∃ t, performWith p (.blockStart frames xs now) s = .next t ∧
        t.vcaState = Config.vcaNext s.vcaState s.acq.val xs ∧
        t = { s with lm := t.lm, audio := t.audio, peak := t.peak, vcaState := t.vcaState } ∧
        t.audio.wet.length = xs.length ∧
        ∀ i : Nat, i < xs.length → t.audio.wet[i]? = some (Config.vcaSample s.vcaState s.acq.val xs i)) ∧
    (s.dispatcher.active = .cleanDelay →
      ∃ t, performWith p (.blockStart frames xs now) s = .next t ∧
        t.delayState = Config.delayNext s.delayState s.acq.val xs ∧
        t = { s with lm := t.lm, audio := t.audio, peak := t.peak, delayState := t.delayState } ∧
        t.audio.wet.length = xs.length ∧
        ∀ i : Nat, i < xs.length → t.audio.wet[i]? = some (Config.delaySample s.delayState s.acq.val xs i))

/-- R67: a filter effect sets FI[0] from the shaped cutoff, the resonance and its mode, copies the settings to FI[1],
and filters each lane through its own instance in order; RESULT is not written, nor anything else but what BLOCK_START
writes. That each lane may be run on its own (the order L-then-R within a frame does not matter) is the spec's own
inference (R67: "derived: from" R92). -/
def Obligations.FilterEffectRunsEachLaneThroughItsInstance : Prop :=
  ∀ (p : Params) (frames : Nat) (xs : List Sample) (now : Word) (s : State) (m : FilterMode),
    s.audio.phase = .idle → s.stopFlag = false → frames ≤ p.maxFrames → xs.length = 2 * frames →
    (s.dispatcher.active = .lowpass ∧ m = .lowpass) ∨ (s.dispatcher.active = .highpass ∧ m = .highpass) ∨
      (s.dispatcher.active = .bandpass ∧ m = .bandpass) →
    ∃ t, performWith p (.blockStart frames xs now) s = .next t ∧
      (t.fi0, lane .left frames t.audio.wet) =
        runLane (s.fi0.fsetp (shape s.acq.val.c0) s.acq.val.c1 m) (lane .left frames xs) ∧
      (t.fi1, lane .right frames t.audio.wet) =
        runLane ((s.fi0.fsetp (shape s.acq.val.c0) s.acq.val.c1 m).fdup s.fi1) (lane .right frames xs) ∧
      t.fi1.f = t.fi0.f ∧ t.fi1.p = t.fi0.p ∧ t.fi1.q = t.fi0.q ∧ t.fi1.gain = t.fi0.gain ∧ t.fi1.mode = t.fi0.mode ∧
      t.audio.wet.length = 2 * frames ∧
      t = { s with lm := t.lm, audio := t.audio, peak := t.peak, fi0 := t.fi0, fi1 := t.fi1 }

/-- R66: the cubic shaping, exact. -/
def Obligations.CutoffShapingIsTheFlooredCube : Prop :=
  ∀ c : Value12, (shape c).toNat = c.toNat ^ 3 / 2 ^ 24 ∧ (shape c).toNat ≤ 4093 ∧
    (c.toNat ≤ 255 → shape c = 0) ∧ (3687 ≤ (shape c).toNat ↔ 3955 ≤ c.toNat)

/-- R71, R72: an enabled BLOCK_END completes, also while stopped: the exit timestamp, the load (floored, not clamped
to 100, saturated at 2^32 − 1, unchanged before two entries and on a zero period), prevWet, the delivered block
(notes/assumptions/9.md); all else stays. -/
def Obligations.BlockEndDeliversTheBlockAndComputesTheLoad : Prop :=
  ∀ (now : Word) (s : State), s.audio.phase = .inBlock → s.audio.n = s.audio.frames →
    ∃ t, perform (.blockEnd now) s = .next t ∧
      (∀ busy period : Int, busy = ((now.toNat : Int) - s.lm.tsEntry.toNat) % 2 ^ 32 →
        period = ((s.lm.tsEntry.toNat : Int) - s.lm.tsPStart.toNat) % 2 ^ 32 →
        (s.lm.count.val = 2 → period ≠ 0 → (t.lm.load.toNat : Int) = min (100 * busy / period) (2 ^ 32 - 1)) ∧
        (s.lm.count.val ≠ 2 ∨ period = 0 → t.lm.load = s.lm.load)) ∧
      t = { s with lm := { s.lm with tsExit := now, load := t.lm.load },
                   audio := { s.audio with prevWet := s.audio.currWet, phase := .idle },
                   delivered := s.audio.buf :: s.delivered }

/-- R71 and R115 in one run: a block in progress, offered its remaining frames and its end, completes and delivers 2F
Samples, whatever the stop flag says. The record `delivered` and the list `pending` are the model's own
(notes/assumptions/9.md, 1.md). -/
def Obligations.StartedBlockRunsToItsEnd : Prop :=
  ∀ (s : State) (now : Word) (rest : List Event), s.Inv → s.audio.phase = .inBlock →
    s.pending = List.replicate (s.audio.frames - s.audio.n) .frame ++ .blockEnd now :: rest →
    ∃ t, core.run (s.audio.frames - s.audio.n + 1) s = .next t ∧ t.audio.phase = .idle ∧
      t.audio.n = s.audio.frames ∧ t.audio.frames = s.audio.frames ∧ t.delivered = t.audio.buf :: s.delivered ∧
      t.audio.buf.length = 2 * s.audio.frames ∧ t.audio.prevWet = s.audio.currWet ∧ t.stopFlag = s.stopFlag ∧
      t.pending = rest

/-- R115 and R71 with R6: under weak fairness a block that started completes, whatever the other agents do and whatever
the stop flag says. What weak fairness covers: notes/assumptions/11.md. -/
def Obligations.StartedBlockCompletesUnderWeakFairness : Prop :=
  ∀ (p : Params) (offers : Nat → List Event) (events : Nat → Event) (states : Nat → State) (k : Nat),
    FairRun p offers events states → (states 0).Inv → ∃ j, k ≤ j ∧ (states j).audio.phase = .idle

/-- R74: no step of the audio sequencer lets one lane's Samples, filter instance or meters reach the other lane
(Bypass and filter effects; an opaque effect is a parameter). -/
def Obligations.LanesNeverMix : Prop :=
  ∀ (p : Params) (ch : Chan) (e e' : Event) (s s' t t' : State), SameLane ch s s' → SameLaneEvent ch e e' →
    s.dispatcher.active ≠ .vca → s.dispatcher.active ≠ .cleanDelay →
    performWith p e s = .next t → performWith p e' s' = .next t' → SameLane ch t t'

/-! ## Control channels -/

/-- R106, R107, R109 with R108's update: a reading is stored, mapped, smoothed and quantised for channel acqChan alone,
and the index moves on; all else stays. -/
def Obligations.AcqTickSmoothsOneChannel : Prop :=
  ∀ (p : Params) (r : BitVec 16) (s : State), s.stopFlag = false →
    ∃ t, performWith p (.acqTick (.value r)) s = .next t ∧
      t.acq.raw.get s.acq.chan = r ∧
      (∀ norm : Int, norm = wrap (r.toNat * p.affMul.toInt + p.affAdd.toInt) →
        (t.acq.state.get s.acq.chan).toInt = wrap ((s.acq.state.get s.acq.chan).toInt +
          mulFixed (wrap (norm - (s.acq.state.get s.acq.chan).toInt)) 419430)) ∧
      ((t.acq.val.get s.acq.chan).toNat : Int) =
        clampTo (floorShift (t.acq.state.get s.acq.chan).toInt 11) 0 4095 ∧
      (∀ j : Fin 4, j ≠ s.acq.chan → t.acq.raw.get j = s.acq.raw.get j ∧ t.acq.state.get j = s.acq.state.get j ∧
        t.acq.val.get j = s.acq.val.get j) ∧
      t.acq.chan.val = (s.acq.chan.val + 1) % 4 ∧ t = { s with acq := t.acq }

/-- R110: an ERROR reading keeps every channel's registers; the index still moves on. -/
def Obligations.ErrorReadingKeepsTheStaleValues : Prop :=
  ∀ (p : Params) (s : State), s.stopFlag = false →
    ∃ t, performWith p (.acqTick .error) s = .next t ∧ t.acq.chan.val = (s.acq.chan.val + 1) % 4 ∧
      t = { s with acq := { s.acq with chan := t.acq.chan } }

/-- R108: towards a fixed target, a state at most 20 below it does not move, one further below moves up without passing
it, one above moves down by at least 1 without passing it, and so reaches it. -/
def Obligations.SmoothingSettlesAtTheTargetFromAbove : Prop :=
  ∀ (norm : Word),
    (∀ st : Word, st.toInt ≤ norm.toInt → norm.toInt - st.toInt ≤ 20 → smooth st norm = st) ∧
    (∀ st : Word, 21 ≤ norm.toInt - st.toInt → norm.toInt - st.toInt < 2 ^ 31 →
      st.toInt < (smooth st norm).toInt ∧ (smooth st norm).toInt ≤ norm.toInt) ∧
    (∀ st : Word, norm.toInt < st.toInt → st.toInt - norm.toInt ≤ 2 ^ 31 →
      (smooth st norm).toInt ≤ st.toInt - 1 ∧ norm.toInt ≤ (smooth st norm).toInt) ∧
    (∀ st : Word, norm.toInt ≤ st.toInt → st.toInt - norm.toInt ≤ 2 ^ 31 →
      ∃ k : Nat, (fun x => smooth x norm)^[k] st = norm)

/-! ## Status access and stop -/

/-- R112: GETLEVEL completes, answers the meter and clears it in the same step; no other meter and nothing else
changes. -/
def Obligations.GetlevelReadsAndClearsOneMeter : Prop :=
  ∀ (idx : BitVec 2) (i : Fin 4) (s : State), i.val = idx.toNat →
    ∃ t, exec (.getlevel idx) s = .next t ∧ t.result.toNat = (s.peak.get i).toNat ∧ t.peak.get i = 0 ∧
      (∀ j : Fin 4, j ≠ i → t.peak.get j = s.peak.get j) ∧ t = { s with result := t.result, peak := t.peak }

/-- R113: GETLOAD completes with RESULT = load and nothing else changed. -/
def Obligations.GetloadAnswersTheLoad : Prop :=
  ∀ s : State, exec .getload s = .next { s with result := s.lm.load }

/-- R114 with R30: RDSTAT completes with RESULT the value the status map lists under that number, 0 for every number
it does not list, and nothing else changed. -/
def Obligations.RdstatAnswersTheStatusMap : Prop :=
  ∀ (reg : BitVec 8) (s : State),
    (∀ v : Word, (reg.toNat, v) ∈ statusTable s → exec (.rdstat reg) s = .next { s with result := v }) ∧
    ((∀ v : Word, (reg.toNat, v) ∉ statusTable s) → exec (.rdstat reg) s = .next { s with result := 0 })

/-- R115: STOP completes and sets stopFlag alone; from then on, until RESET, no BLOCK_START and no ACQ_TICK is enabled
and the flag stays. -/
def Obligations.StopHoldsUntilReset : Prop :=
  (∀ s : State, exec .stop s = .next { s with stopFlag := true }) ∧
  (∀ (p : Params) (frames : Nat) (xs : List Sample) (now : Word) (r : Reading) (s : State), s.stopFlag = true →
    Event.enabled p (.blockStart frames xs now) s = false ∧ Event.enabled p (.acqTick r) s = false) ∧
  (∀ (e : Event) (s t : State), s.stopFlag = true → e ≠ .reset → perform e s = .next t →
    t.stopFlag = true ∧ t.acq = s.acq ∧ (s.audio.phase = .idle → t.audio = s.audio))

/-- R116, R117: NOP and the reserved opcodes complete and change nothing, whatever their bits 27:0. -/
def Obligations.NopAndReservedOpcodesChangeNothing : Prop :=
  (∀ s : State, exec .nop s = .next s ∧ exec .reservedB s = .next s ∧ exec .reservedC s = .next s ∧
    exec .reservedD s = .next s ∧ exec .reservedE s = .next s ∧ exec .reservedF s = .next s) ∧
  (∀ (w : Word) (s : State), w.toNat < 2 ^ 28 ∨ 11 * 2 ^ 28 ≤ w.toNat → exec (decode w) s = .next s)

/-! ## Reset, enabling and whole-machine rules -/

/-- R131: RESET completes and sets every state element to its reset value; after it every agent is ready. -/
def Obligations.ResetSetsEveryStateElement : Prop :=
  ∀ s : State, ∃ t, perform .reset s = .next t ∧
    (∀ ch : Chan, t.fi ch = { f := 0, p := 0, q := 0, gain := 0, b0 := 0, b1 := 0, b2 := 0, b3 := 0, b4 := 0, t1 := 0,
                              t2 := 0, mode := .disabled }) ∧
    t.dispatcher = { active := .bypass, selPhase := .idle, selPrev := .bypass, selNew := .bypass } ∧
    t.vcaState = Config.vcaInit ∧ t.delayState = Config.delayInit ∧
    t.audio = { phase := .idle, frames := 0, n := 0, buf := [], wet := [], prevWet := 0, currWet := 0 } ∧
    t.mute = { state := .passThrough, count := 512 } ∧ t.peak = { c0 := 0, c1 := 0, c2 := 0, c3 := 0 } ∧
    t.lm = { tsPStart := 0, tsEntry := 0, tsExit := 0, count := 0, load := 0 } ∧
    t.acq = { val := { c0 := 0, c1 := 0, c2 := 0, c3 := 0 }, raw := { c0 := 0, c1 := 0, c2 := 0, c3 := 0 },
              state := { c0 := 0, c1 := 0, c2 := 0, c3 := 0 }, chan := 0 } ∧
    t.result = 0 ∧ t.stopFlag = false ∧ t.fatalFlag = false ∧
    (∀ (p : Params) (frames : Nat) (xs : List Sample) (now w : Word) (r : Reading), frames ≤ p.maxFrames →
      xs.length = 2 * frames → Event.enabled p (.blockStart frames xs now) t = true ∧
        Event.enabled p (.acqTick r) t = true ∧ Event.enabled p (.command w) t = true ∧
        Event.enabled p .selStep t = false)

/-- R120 with R60, R70, R71, R81, R106: the conditions under which each step is enabled, written out from the rules,
and that outside them the step changes nothing: a block offered while another is in progress, while stopped, of more than
MAX_FRAMES frames or of another length than 2F is refused, never truncated. That the offer is passed over, not kept, is
the model's choice (notes/assumptions/4.md). -/
def Obligations.StepThatIsNotEnabledChangesNothing : Prop :=
  ∀ (p : Params) (s : State),
    (∀ (frames : Nat) (xs : List Sample) (now : Word),
      (Event.enabled p (.blockStart frames xs now) s = true ↔
        s.audio.phase = .idle ∧ s.stopFlag = false ∧ frames ≤ p.maxFrames ∧ xs.length = 2 * frames) ∧
      (s.audio.phase = .inBlock ∨ s.stopFlag = true ∨ (p.maxFrames : Nat) < frames ∨ xs.length ≠ 2 * frames →
        performWith p (.blockStart frames xs now) s = .next s)) ∧
    ((Event.enabled p .frame s = true ↔ s.audio.phase = .inBlock ∧ s.audio.n < s.audio.frames) ∧
      (s.audio.phase = .idle ∨ s.audio.frames ≤ s.audio.n → performWith p .frame s = .next s)) ∧
    (∀ now : Word,
      (Event.enabled p (.blockEnd now) s = true ↔ s.audio.phase = .inBlock ∧ s.audio.n = s.audio.frames) ∧
      (s.audio.phase = .idle ∨ s.audio.n ≠ s.audio.frames → performWith p (.blockEnd now) s = .next s)) ∧
    (∀ r : Reading, (Event.enabled p (.acqTick r) s = true ↔ s.stopFlag = false) ∧
      (s.stopFlag = true → performWith p (.acqTick r) s = .next s)) ∧
    ((Event.enabled p .selStep s = true ↔ s.dispatcher.selPhase ≠ .idle) ∧
      (s.dispatcher.selPhase = .idle → performWith p .selStep s = .next s)) ∧
    (∀ w : Word, Event.enabled p (.command w) s = true) ∧ Event.enabled p .reset s = true

/-- R118, R125: every command completes in every state. -/
def Obligations.EveryCommandCompletesInEveryState : Prop :=
  ∀ (i : Instr) (s : State), ∃ t, exec i s = .next t

/-- R118: no step of any agent stops the machine, in any state that meets the invariant. Where the oldest pending event
is not enabled (R120), that the step passes it over and answers a next state is the model's choice
(notes/assumptions/4.md); so is the free draw with nothing pending (notes/assumptions/2.md) and the list itself
(notes/assumptions/1.md). -/
def Obligations.NoStepOfAnyAgentStops : Prop := ∀ s : State, s.Inv → ∃ t, step s = .next t

/-- R18, R23, R25, R26, R80: every step keeps the invariant, from every state that meets it. -/
def Obligations.EveryStepKeepsTheInvariant : Prop := ∀ s t : State, s.Inv → step s = .next t → t.Inv

/-- The invariant holds right after reset. -/
def Obligations.ResetMeetsTheInvariant : Prop := State.reset.Inv

/-- R23, R60: no step lets a block of more than MAX_FRAMES frames in. -/
def Obligations.EveryStepKeepsBlocksWithinMaxFrames : Prop :=
  State.reset.BlockFits ∧ ∀ s t : State, s.BlockFits → step s = .next t → t.BlockFits

/-- R29: only FPROC, GETLEVEL, GETLOAD, RDSTAT and RESET write RESULT. -/
def Obligations.OnlyReturningCommandsWriteResult : Prop :=
  ∀ (e : Event) (s t : State), perform e s = .next t → t.result ≠ s.result →
    e = .reset ∨ ∃ w, e = .command w ∧
      ((∃ ch x, decode w = .fproc ch x) ∨ (∃ i, decode w = .getlevel i) ∨ decode w = .getload ∨
        ∃ r, decode w = .rdstat r)

/-- R40, R128, and R15, R16, R20 to R29: who writes what, for every state element, by any step but RESET. -/
def Obligations.EveryStateElementHasItsWriters : Prop :=
  ∀ (e : Event) (s t : State), perform e s = .next t → e ≠ .reset →
    (t.acq ≠ s.acq → ∃ r, e = .acqTick r) ∧
    (t.dispatcher.active ≠ s.dispatcher.active → e = .selStep) ∧
    (t.dispatcher.selPhase ≠ s.dispatcher.selPhase →
      e = .selStep ∨ ∃ w i, e = .command w ∧ decode w = .select i) ∧
    (t.dispatcher.selPrev ≠ s.dispatcher.selPrev ∨ t.dispatcher.selNew ≠ s.dispatcher.selNew →
      ∃ w i, e = .command w ∧ decode w = .select i) ∧
    (t.vcaState ≠ s.vcaState ∨ t.delayState ≠ s.delayState →
      e = .selStep ∨ ∃ n xs now, e = .blockStart n xs now) ∧
    (t.mute ≠ s.mute → e = .frame ∨ ∃ w on, e = .command w ∧ decode w = .mute on) ∧
    (∀ ch : Chan,
      (t.peak.get (inMeter ch) ≠ s.peak.get (inMeter ch) → (∃ n xs now, e = .blockStart n xs now) ∨
        ∃ w idx, e = .command w ∧ decode w = .getlevel idx ∧ idx.toNat = (inMeter ch).val) ∧
      (t.peak.get (outMeter ch) ≠ s.peak.get (outMeter ch) → e = .frame ∨
        ∃ w idx, e = .command w ∧ decode w = .getlevel idx ∧ idx.toNat = (outMeter ch).val)) ∧
    (t.lm ≠ s.lm → (∃ n xs now, e = .blockStart n xs now) ∨ ∃ now, e = .blockEnd now) ∧
    (t.audio ≠ s.audio → e = .frame ∨ (∃ n xs now, e = .blockStart n xs now) ∨ ∃ now, e = .blockEnd now) ∧
    (∀ ch : Chan, t.fi ch ≠ s.fi ch → e = .selStep ∨ (∃ n xs now, e = .blockStart n xs now) ∨
      ∃ w, e = .command w ∧ ((∃ m c r, decode w = .fsetp ch m c r) ∨ (∃ x, decode w = .fproc ch x) ∨
        (∃ src, decode w = .fdup src ch) ∨ decode w = .finit ch)) ∧
    (t.result ≠ s.result → ∃ w, e = .command w ∧ ((∃ ch x, decode w = .fproc ch x) ∨
      (∃ idx, decode w = .getlevel idx) ∨ decode w = .getload ∨ ∃ r, decode w = .rdstat r)) ∧
    (t.stopFlag ≠ s.stopFlag → ∃ w, e = .command w ∧ decode w = .stop) ∧
    (t.fatalFlag ≠ s.fatalFlag → e = .selStep)

/-- R15, R78, R119: fatalFlag is set by micro-step 3 of a switch to VCA or CleanDelay alone, and nothing but RESET
clears it. -/
def Obligations.FatalFlagIsStickyAndSetByAFailedInitAlone : Prop :=
  ∀ (p : Params) (e : Event) (s t : State), performWith p e s = .next t → e ≠ .reset →
    (s.fatalFlag = true → t.fatalFlag = true) ∧
    (s.fatalFlag = false → t.fatalFlag = true →
      e = .selStep ∧ s.dispatcher.selPhase = .p3 ∧
        ((s.dispatcher.selNew = .vca ∧ p.vcaInitOk = false) ∨
          (s.dispatcher.selNew = .cleanDelay ∧ p.delayInitOk = false)) ∧
        t.dispatcher.selPhase = .idle)

/-- R26: a meter never falls but by its own GETLEVEL and by RESET. -/
def Obligations.MetersOnlyRiseUntilReadAndCleared : Prop :=
  ∀ (e : Event) (s t : State) (i : Fin 4), perform e s = .next t → e ≠ .reset →
    (∀ w idx, e = .command w → decode w = .getlevel idx → idx.toNat ≠ i.val) →
    (s.peak.get i).toNat ≤ (t.peak.get i).toNat

/-! ## Byte image and assembler -/

/-- R34, R35: the byte image of a block: two bytes a Sample, low byte at the lower offset, read back exactly; a byte
list of length 4·F is the BLOCK_START of F frames with the 2F Samples whose image it is, and one of any other length is
no BLOCK_START. -/
def Obligations.ByteImageIsLittleEndianAndReadsBack : Prop :=
  (∀ xs : List Sample, samplesOfBytes (bytesOfBlock xs) = xs ∧ (bytesOfBlock xs).length = 2 * xs.length ∧
    ∀ (i : Nat) (x : Sample), xs[i]? = some x →
      (bytesOfBlock xs)[2 * i]? = some (BitVec.ofNat 8 x.toNat) ∧
      (bytesOfBlock xs)[2 * i + 1]? = some (BitVec.ofNat 8 (x.toNat / 256))) ∧
  (∀ (frames : Nat) (bytes : List (BitVec 8)) (now : Word), bytes.length ≠ 4 * frames →
    blockStartOfBytes frames bytes now = none) ∧
  (∀ (frames : Nat) (bytes : List (BitVec 8)) (now : Word), bytes.length = 4 * frames →
    ∃ xs, blockStartOfBytes frames bytes now = some (.blockStart frames xs now) ∧ xs.length = 2 * frames ∧
      bytesOfBlock xs = bytes)

/-- R59: the words of the pseudo-instructions, and lines of R58. -/
def Obligations.PseudoInstructionsAssembleToTheirWords : Prop :=
  assembleLine "MUTEON".toList = some [.issue 0x60000001] ∧ assembleLine "UNMUTE".toList = some [.issue 0x60000000] ∧
  assembleLine "BYPASS".toList = some [.issue 0x50000000] ∧
  assembleLine "FINITALL".toList = some [.issue 0x40000000, .issue 0x48000000] ∧
  assembleLine "FCOPYLR".toList = some [.issue 0x34000000] ∧
  assembleLine "FREAD 1, 8".toList = some [.issue 0x90000038] ∧
  assembleLine "MUTEWAIT 2".toList = some [.poll 0x90000002 2] ∧
  assembleLine "SELWAIT".toList = some [.poll 0x90000001 0] ∧
  assembleLine "FSETP  0, LP, 1024, 0 ; P1".toList = some [.issue 0x10400000] ∧
  assembleLine "FPROC  1, -16384".toList = some [.issue 0x2800C000] ∧ assembleLine "MUTE 2".toList = none
end

