-- ==== Sys2Proof/Laws/Decode.lean ====
section
/-!
SUPPORT. The fields of a command word as quotients and remainders of its number, so that facts about decoding are
linear arithmetic.
-/

namespace Sys2Proof

/-- `v[hi:lo]` as a number (30_encoding.md R53). -/
theorem bitField_toNat (w : Word) (lo len : Nat) : (bitField w lo len).toNat = w.toNat / 2 ^ lo % 2 ^ len := by
  simp [bitField, Nat.shiftRight_eq_div_pow]

/-- A field is determined by its number. -/
theorem bitField_eq_of_toNat {w : Word} {lo len : Nat} {v : BitVec len} (h : w.toNat / 2 ^ lo % 2 ^ len = v.toNat) :
    bitField w lo len = v := by
  apply BitVec.eq_of_toNat_eq
  rw [bitField_toNat, h]

theorem bitAt_eq_decide (w : Word) (i : Nat) : bitAt w i = decide (w.toNat / 2 ^ i % 2 = 1) := by
  simp [bitAt, BitVec.getLsbD, Nat.testBit_eq_decide_div_mod_eq]

@[simp] theorem chanOfBit_bit (ch : Chan) : chanOfBit ch.bit = ch := by
  cases ch <;> rfl

/-- A command's number fits in a word. -/
theorem encodeNat_lt (i : Instr) : encodeNat i < 2 ^ 32 := by
  cases i with
  | fsetp ch mode cutoff res =>
    have h₁ := mode.isLt
    have h₂ := cutoff.isLt
    have h₃ := res.isLt
    cases ch <;> simp [encodeNat, placed, placedBit, Chan.bit] <;> omega
  | fproc ch sample =>
    have h₁ := sample.isLt
    cases ch <;> simp [encodeNat, placed, placedBit, Chan.bit] <;> omega
  | fdup src dst => cases src <;> cases dst <;> decide
  | finit ch => cases ch <;> decide
  | mute on => cases on <;> decide
  | select idx =>
    have h₁ := idx.isLt
    simp [encodeNat, placed]
    omega
  | getlevel idx =>
    have h₁ := idx.isLt
    simp [encodeNat, placed]
    omega
  | rdstat reg =>
    have h₁ := reg.isLt
    simp [encodeNat, placed]
    omega
  | _ => decide

theorem encode_toNat (i : Instr) : (encode i).toNat = encodeNat i := by
  rw [encode, BitVec.toNat_ofNat]
  exact Nat.mod_eq_of_lt (encodeNat_lt i)

/-- Decoding reads the opcode off the top of the word's number. -/
theorem decode_eq (w : Word) : decode w = decodeOp (w.toNat / 2 ^ 28 % 2 ^ 4) w := by
  rw [decode, bitField_toNat]

end Sys2Proof
end

