-- ==== Sys2Proof/Laws/State.lean ====
section
/-!
SUPPORT. What each named update of the state leaves alone, one lemma per field, and what it writes.
-/

namespace Sys2Proof.Machine

/-! ## Writing a filter instance -/

@[simp] theorem State.setFi_dispatcher (s : State) (ch : Chan) (v : Filter) : (s.setFi ch v).dispatcher = s.dispatcher := by cases ch <;> rfl
@[simp] theorem State.setFi_vcaState (s : State) (ch : Chan) (v : Filter) : (s.setFi ch v).vcaState = s.vcaState := by cases ch <;> rfl
@[simp] theorem State.setFi_delayState (s : State) (ch : Chan) (v : Filter) : (s.setFi ch v).delayState = s.delayState := by cases ch <;> rfl
@[simp] theorem State.setFi_audio (s : State) (ch : Chan) (v : Filter) : (s.setFi ch v).audio = s.audio := by cases ch <;> rfl
@[simp] theorem State.setFi_mute (s : State) (ch : Chan) (v : Filter) : (s.setFi ch v).mute = s.mute := by cases ch <;> rfl
@[simp] theorem State.setFi_peak (s : State) (ch : Chan) (v : Filter) : (s.setFi ch v).peak = s.peak := by cases ch <;> rfl
@[simp] theorem State.setFi_lm (s : State) (ch : Chan) (v : Filter) : (s.setFi ch v).lm = s.lm := by cases ch <;> rfl
@[simp] theorem State.setFi_acq (s : State) (ch : Chan) (v : Filter) : (s.setFi ch v).acq = s.acq := by cases ch <;> rfl
@[simp] theorem State.setFi_result (s : State) (ch : Chan) (v : Filter) : (s.setFi ch v).result = s.result := by cases ch <;> rfl
@[simp] theorem State.setFi_stopFlag (s : State) (ch : Chan) (v : Filter) : (s.setFi ch v).stopFlag = s.stopFlag := by cases ch <;> rfl
@[simp] theorem State.setFi_fatalFlag (s : State) (ch : Chan) (v : Filter) : (s.setFi ch v).fatalFlag = s.fatalFlag := by cases ch <;> rfl
@[simp] theorem State.setFi_pending (s : State) (ch : Chan) (v : Filter) : (s.setFi ch v).pending = s.pending := by cases ch <;> rfl
@[simp] theorem State.setFi_draws (s : State) (ch : Chan) (v : Filter) : (s.setFi ch v).draws = s.draws := by cases ch <;> rfl
@[simp] theorem State.setFi_delivered (s : State) (ch : Chan) (v : Filter) : (s.setFi ch v).delivered = s.delivered := by cases ch <;> rfl

@[simp] theorem State.fi_setFi_self (s : State) (ch : Chan) (v : Filter) : (s.setFi ch v).fi ch = v := by
  cases ch <;> rfl

theorem State.fi_setFi_of_ne (s : State) (ch ch' : Chan) (v : Filter) (h : ch' ≠ ch) :
    (s.setFi ch v).fi ch' = s.fi ch' := by
  cases ch <;> cases ch' <;> first | rfl | exact absurd rfl h

@[simp] theorem State.setFi_fi (s : State) (ch : Chan) : s.setFi ch (s.fi ch) = s := by
  cases ch <;> rfl

@[simp] theorem State.fi_left (s : State) : s.fi .left = s.fi0 := rfl

@[simp] theorem State.fi_right (s : State) : s.fi .right = s.fi1 := rfl

/-- A write of a filter instance changes the two instances at most. -/
theorem State.setFi_eq (s : State) (ch : Chan) (v : Filter) :
    s.setFi ch v = { s with fi0 := (s.setFi ch v).fi0, fi1 := (s.setFi ch v).fi1 } := by
  cases ch <;> rfl

/-! ## RESULT, a meter, an element of Buf -/

@[simp] theorem State.setResult_fi0 (s : State) (v : Word) : (s.setResult v).fi0 = s.fi0 := rfl
@[simp] theorem State.setResult_fi1 (s : State) (v : Word) : (s.setResult v).fi1 = s.fi1 := rfl
@[simp] theorem State.setResult_dispatcher (s : State) (v : Word) : (s.setResult v).dispatcher = s.dispatcher := rfl
@[simp] theorem State.setResult_vcaState (s : State) (v : Word) : (s.setResult v).vcaState = s.vcaState := rfl
@[simp] theorem State.setResult_delayState (s : State) (v : Word) : (s.setResult v).delayState = s.delayState := rfl
@[simp] theorem State.setResult_audio (s : State) (v : Word) : (s.setResult v).audio = s.audio := rfl
@[simp] theorem State.setResult_mute (s : State) (v : Word) : (s.setResult v).mute = s.mute := rfl
@[simp] theorem State.setResult_peak (s : State) (v : Word) : (s.setResult v).peak = s.peak := rfl
@[simp] theorem State.setResult_lm (s : State) (v : Word) : (s.setResult v).lm = s.lm := rfl
@[simp] theorem State.setResult_acq (s : State) (v : Word) : (s.setResult v).acq = s.acq := rfl
@[simp] theorem State.setResult_stopFlag (s : State) (v : Word) : (s.setResult v).stopFlag = s.stopFlag := rfl
@[simp] theorem State.setResult_fatalFlag (s : State) (v : Word) : (s.setResult v).fatalFlag = s.fatalFlag := rfl
@[simp] theorem State.setResult_pending (s : State) (v : Word) : (s.setResult v).pending = s.pending := rfl
@[simp] theorem State.setResult_draws (s : State) (v : Word) : (s.setResult v).draws = s.draws := rfl
@[simp] theorem State.setResult_delivered (s : State) (v : Word) : (s.setResult v).delivered = s.delivered := rfl

@[simp] theorem State.setResult_result (s : State) (v : Word) : (s.setResult v).result = v := rfl

@[simp] theorem State.fi_setResult (s : State) (v : Word) (ch : Chan) : (s.setResult v).fi ch = s.fi ch := by
  cases ch <;> rfl

@[simp] theorem State.setPeak_fi0 (s : State) (i : Fin 4) (v : BitVec 16) : (s.setPeak i v).fi0 = s.fi0 := rfl
@[simp] theorem State.setPeak_fi1 (s : State) (i : Fin 4) (v : BitVec 16) : (s.setPeak i v).fi1 = s.fi1 := rfl
@[simp] theorem State.setPeak_dispatcher (s : State) (i : Fin 4) (v : BitVec 16) : (s.setPeak i v).dispatcher = s.dispatcher := rfl
@[simp] theorem State.setPeak_vcaState (s : State) (i : Fin 4) (v : BitVec 16) : (s.setPeak i v).vcaState = s.vcaState := rfl
@[simp] theorem State.setPeak_delayState (s : State) (i : Fin 4) (v : BitVec 16) : (s.setPeak i v).delayState = s.delayState := rfl
@[simp] theorem State.setPeak_audio (s : State) (i : Fin 4) (v : BitVec 16) : (s.setPeak i v).audio = s.audio := rfl
@[simp] theorem State.setPeak_mute (s : State) (i : Fin 4) (v : BitVec 16) : (s.setPeak i v).mute = s.mute := rfl
@[simp] theorem State.setPeak_lm (s : State) (i : Fin 4) (v : BitVec 16) : (s.setPeak i v).lm = s.lm := rfl
@[simp] theorem State.setPeak_acq (s : State) (i : Fin 4) (v : BitVec 16) : (s.setPeak i v).acq = s.acq := rfl
@[simp] theorem State.setPeak_result (s : State) (i : Fin 4) (v : BitVec 16) : (s.setPeak i v).result = s.result := rfl
@[simp] theorem State.setPeak_stopFlag (s : State) (i : Fin 4) (v : BitVec 16) : (s.setPeak i v).stopFlag = s.stopFlag := rfl
@[simp] theorem State.setPeak_fatalFlag (s : State) (i : Fin 4) (v : BitVec 16) : (s.setPeak i v).fatalFlag = s.fatalFlag := rfl
@[simp] theorem State.setPeak_pending (s : State) (i : Fin 4) (v : BitVec 16) : (s.setPeak i v).pending = s.pending := rfl
@[simp] theorem State.setPeak_draws (s : State) (i : Fin 4) (v : BitVec 16) : (s.setPeak i v).draws = s.draws := rfl
@[simp] theorem State.setPeak_delivered (s : State) (i : Fin 4) (v : BitVec 16) : (s.setPeak i v).delivered = s.delivered := rfl

@[simp] theorem State.setPeak_peak (s : State) (i : Fin 4) (v : BitVec 16) :
    (s.setPeak i v).peak = s.peak.set i v := rfl

@[simp] theorem State.writeBuf_fi0 (s : State) (i : Nat) (v : Sample) : (s.writeBuf i v).fi0 = s.fi0 := rfl
@[simp] theorem State.writeBuf_fi1 (s : State) (i : Nat) (v : Sample) : (s.writeBuf i v).fi1 = s.fi1 := rfl
@[simp] theorem State.writeBuf_dispatcher (s : State) (i : Nat) (v : Sample) : (s.writeBuf i v).dispatcher = s.dispatcher := rfl
@[simp] theorem State.writeBuf_vcaState (s : State) (i : Nat) (v : Sample) : (s.writeBuf i v).vcaState = s.vcaState := rfl
@[simp] theorem State.writeBuf_delayState (s : State) (i : Nat) (v : Sample) : (s.writeBuf i v).delayState = s.delayState := rfl
@[simp] theorem State.writeBuf_mute (s : State) (i : Nat) (v : Sample) : (s.writeBuf i v).mute = s.mute := rfl
@[simp] theorem State.writeBuf_peak (s : State) (i : Nat) (v : Sample) : (s.writeBuf i v).peak = s.peak := rfl
@[simp] theorem State.writeBuf_lm (s : State) (i : Nat) (v : Sample) : (s.writeBuf i v).lm = s.lm := rfl
@[simp] theorem State.writeBuf_acq (s : State) (i : Nat) (v : Sample) : (s.writeBuf i v).acq = s.acq := rfl
@[simp] theorem State.writeBuf_result (s : State) (i : Nat) (v : Sample) : (s.writeBuf i v).result = s.result := rfl
@[simp] theorem State.writeBuf_stopFlag (s : State) (i : Nat) (v : Sample) : (s.writeBuf i v).stopFlag = s.stopFlag := rfl
@[simp] theorem State.writeBuf_fatalFlag (s : State) (i : Nat) (v : Sample) : (s.writeBuf i v).fatalFlag = s.fatalFlag := rfl
@[simp] theorem State.writeBuf_pending (s : State) (i : Nat) (v : Sample) : (s.writeBuf i v).pending = s.pending := rfl
@[simp] theorem State.writeBuf_draws (s : State) (i : Nat) (v : Sample) : (s.writeBuf i v).draws = s.draws := rfl
@[simp] theorem State.writeBuf_delivered (s : State) (i : Nat) (v : Sample) : (s.writeBuf i v).delivered = s.delivered := rfl

@[simp] theorem State.writeBuf_audio (s : State) (i : Nat) (v : Sample) :
    (s.writeBuf i v).audio = { s.audio with buf := s.audio.buf.set i v } := rfl

/-! ## The dispatcher -/

@[simp] theorem State.setSelPhase_fi0 (s : State) (p : SelPhase) : (s.setSelPhase p).fi0 = s.fi0 := rfl
@[simp] theorem State.setSelPhase_fi1 (s : State) (p : SelPhase) : (s.setSelPhase p).fi1 = s.fi1 := rfl
@[simp] theorem State.setSelPhase_vcaState (s : State) (p : SelPhase) : (s.setSelPhase p).vcaState = s.vcaState := rfl
@[simp] theorem State.setSelPhase_delayState (s : State) (p : SelPhase) : (s.setSelPhase p).delayState = s.delayState := rfl
@[simp] theorem State.setSelPhase_audio (s : State) (p : SelPhase) : (s.setSelPhase p).audio = s.audio := rfl
@[simp] theorem State.setSelPhase_mute (s : State) (p : SelPhase) : (s.setSelPhase p).mute = s.mute := rfl
@[simp] theorem State.setSelPhase_peak (s : State) (p : SelPhase) : (s.setSelPhase p).peak = s.peak := rfl
@[simp] theorem State.setSelPhase_lm (s : State) (p : SelPhase) : (s.setSelPhase p).lm = s.lm := rfl
@[simp] theorem State.setSelPhase_acq (s : State) (p : SelPhase) : (s.setSelPhase p).acq = s.acq := rfl
@[simp] theorem State.setSelPhase_result (s : State) (p : SelPhase) : (s.setSelPhase p).result = s.result := rfl
@[simp] theorem State.setSelPhase_stopFlag (s : State) (p : SelPhase) : (s.setSelPhase p).stopFlag = s.stopFlag := rfl
@[simp] theorem State.setSelPhase_fatalFlag (s : State) (p : SelPhase) : (s.setSelPhase p).fatalFlag = s.fatalFlag := rfl
@[simp] theorem State.setSelPhase_pending (s : State) (p : SelPhase) : (s.setSelPhase p).pending = s.pending := rfl
@[simp] theorem State.setSelPhase_draws (s : State) (p : SelPhase) : (s.setSelPhase p).draws = s.draws := rfl
@[simp] theorem State.setSelPhase_delivered (s : State) (p : SelPhase) : (s.setSelPhase p).delivered = s.delivered := rfl

@[simp] theorem State.setSelPhase_dispatcher (s : State) (p : SelPhase) :
    (s.setSelPhase p).dispatcher = { s.dispatcher with selPhase := p } := rfl

@[simp] theorem State.reportInitFailure_fi0 (s : State) : (s.reportInitFailure).fi0 = s.fi0 := rfl
@[simp] theorem State.reportInitFailure_fi1 (s : State) : (s.reportInitFailure).fi1 = s.fi1 := rfl
@[simp] theorem State.reportInitFailure_vcaState (s : State) : (s.reportInitFailure).vcaState = s.vcaState := rfl
@[simp] theorem State.reportInitFailure_delayState (s : State) : (s.reportInitFailure).delayState = s.delayState := rfl
@[simp] theorem State.reportInitFailure_audio (s : State) : (s.reportInitFailure).audio = s.audio := rfl
@[simp] theorem State.reportInitFailure_mute (s : State) : (s.reportInitFailure).mute = s.mute := rfl
@[simp] theorem State.reportInitFailure_peak (s : State) : (s.reportInitFailure).peak = s.peak := rfl
@[simp] theorem State.reportInitFailure_lm (s : State) : (s.reportInitFailure).lm = s.lm := rfl
@[simp] theorem State.reportInitFailure_acq (s : State) : (s.reportInitFailure).acq = s.acq := rfl
@[simp] theorem State.reportInitFailure_result (s : State) : (s.reportInitFailure).result = s.result := rfl
@[simp] theorem State.reportInitFailure_stopFlag (s : State) : (s.reportInitFailure).stopFlag = s.stopFlag := rfl
@[simp] theorem State.reportInitFailure_pending (s : State) : (s.reportInitFailure).pending = s.pending := rfl
@[simp] theorem State.reportInitFailure_draws (s : State) : (s.reportInitFailure).draws = s.draws := rfl
@[simp] theorem State.reportInitFailure_delivered (s : State) : (s.reportInitFailure).delivered = s.delivered := rfl

@[simp] theorem State.reportInitFailure_dispatcher (s : State) :
    s.reportInitFailure.dispatcher = { s.dispatcher with selPhase := .idle } := rfl

@[simp] theorem State.reportInitFailure_fatalFlag (s : State) : s.reportInitFailure.fatalFlag = true := rfl

@[simp] theorem State.initFilters_dispatcher (s : State) : (s.initFilters).dispatcher = s.dispatcher := rfl
@[simp] theorem State.initFilters_vcaState (s : State) : (s.initFilters).vcaState = s.vcaState := rfl
@[simp] theorem State.initFilters_delayState (s : State) : (s.initFilters).delayState = s.delayState := rfl
@[simp] theorem State.initFilters_audio (s : State) : (s.initFilters).audio = s.audio := rfl
@[simp] theorem State.initFilters_mute (s : State) : (s.initFilters).mute = s.mute := rfl
@[simp] theorem State.initFilters_peak (s : State) : (s.initFilters).peak = s.peak := rfl
@[simp] theorem State.initFilters_lm (s : State) : (s.initFilters).lm = s.lm := rfl
@[simp] theorem State.initFilters_acq (s : State) : (s.initFilters).acq = s.acq := rfl
@[simp] theorem State.initFilters_result (s : State) : (s.initFilters).result = s.result := rfl
@[simp] theorem State.initFilters_stopFlag (s : State) : (s.initFilters).stopFlag = s.stopFlag := rfl
@[simp] theorem State.initFilters_fatalFlag (s : State) : (s.initFilters).fatalFlag = s.fatalFlag := rfl
@[simp] theorem State.initFilters_pending (s : State) : (s.initFilters).pending = s.pending := rfl
@[simp] theorem State.initFilters_draws (s : State) : (s.initFilters).draws = s.draws := rfl
@[simp] theorem State.initFilters_delivered (s : State) : (s.initFilters).delivered = s.delivered := rfl

@[simp] theorem State.initFilters_fi0 (s : State) : s.initFilters.fi0 = Filter.cleared := rfl

@[simp] theorem State.initFilters_fi1 (s : State) : s.initFilters.fi1 = Filter.cleared := rfl

/-! ## The audio sequencer -/

@[simp] theorem State.takeBlock_fi0 (s : State) (p : Params) (frames : Nat) (xs : List Sample) (now : Word) : (State.takeBlock p frames xs now s).fi0 = s.fi0 := rfl
@[simp] theorem State.takeBlock_fi1 (s : State) (p : Params) (frames : Nat) (xs : List Sample) (now : Word) : (State.takeBlock p frames xs now s).fi1 = s.fi1 := rfl
@[simp] theorem State.takeBlock_dispatcher (s : State) (p : Params) (frames : Nat) (xs : List Sample) (now : Word) : (State.takeBlock p frames xs now s).dispatcher = s.dispatcher := rfl
@[simp] theorem State.takeBlock_vcaState (s : State) (p : Params) (frames : Nat) (xs : List Sample) (now : Word) : (State.takeBlock p frames xs now s).vcaState = s.vcaState := rfl
@[simp] theorem State.takeBlock_delayState (s : State) (p : Params) (frames : Nat) (xs : List Sample) (now : Word) : (State.takeBlock p frames xs now s).delayState = s.delayState := rfl
@[simp] theorem State.takeBlock_mute (s : State) (p : Params) (frames : Nat) (xs : List Sample) (now : Word) : (State.takeBlock p frames xs now s).mute = s.mute := rfl
@[simp] theorem State.takeBlock_acq (s : State) (p : Params) (frames : Nat) (xs : List Sample) (now : Word) : (State.takeBlock p frames xs now s).acq = s.acq := rfl
@[simp] theorem State.takeBlock_result (s : State) (p : Params) (frames : Nat) (xs : List Sample) (now : Word) : (State.takeBlock p frames xs now s).result = s.result := rfl
@[simp] theorem State.takeBlock_stopFlag (s : State) (p : Params) (frames : Nat) (xs : List Sample) (now : Word) : (State.takeBlock p frames xs now s).stopFlag = s.stopFlag := rfl
@[simp] theorem State.takeBlock_fatalFlag (s : State) (p : Params) (frames : Nat) (xs : List Sample) (now : Word) : (State.takeBlock p frames xs now s).fatalFlag = s.fatalFlag := rfl
@[simp] theorem State.takeBlock_pending (s : State) (p : Params) (frames : Nat) (xs : List Sample) (now : Word) : (State.takeBlock p frames xs now s).pending = s.pending := rfl
@[simp] theorem State.takeBlock_draws (s : State) (p : Params) (frames : Nat) (xs : List Sample) (now : Word) : (State.takeBlock p frames xs now s).draws = s.draws := rfl
@[simp] theorem State.takeBlock_delivered (s : State) (p : Params) (frames : Nat) (xs : List Sample) (now : Word) : (State.takeBlock p frames xs now s).delivered = s.delivered := rfl

@[simp] theorem State.enterBlock_fi0 (s : State) : (s.enterBlock).fi0 = s.fi0 := rfl
@[simp] theorem State.enterBlock_fi1 (s : State) : (s.enterBlock).fi1 = s.fi1 := rfl
@[simp] theorem State.enterBlock_dispatcher (s : State) : (s.enterBlock).dispatcher = s.dispatcher := rfl
@[simp] theorem State.enterBlock_vcaState (s : State) : (s.enterBlock).vcaState = s.vcaState := rfl
@[simp] theorem State.enterBlock_delayState (s : State) : (s.enterBlock).delayState = s.delayState := rfl
@[simp] theorem State.enterBlock_mute (s : State) : (s.enterBlock).mute = s.mute := rfl
@[simp] theorem State.enterBlock_peak (s : State) : (s.enterBlock).peak = s.peak := rfl
@[simp] theorem State.enterBlock_lm (s : State) : (s.enterBlock).lm = s.lm := rfl
@[simp] theorem State.enterBlock_acq (s : State) : (s.enterBlock).acq = s.acq := rfl
@[simp] theorem State.enterBlock_result (s : State) : (s.enterBlock).result = s.result := rfl
@[simp] theorem State.enterBlock_stopFlag (s : State) : (s.enterBlock).stopFlag = s.stopFlag := rfl
@[simp] theorem State.enterBlock_fatalFlag (s : State) : (s.enterBlock).fatalFlag = s.fatalFlag := rfl
@[simp] theorem State.enterBlock_pending (s : State) : (s.enterBlock).pending = s.pending := rfl
@[simp] theorem State.enterBlock_draws (s : State) : (s.enterBlock).draws = s.draws := rfl
@[simp] theorem State.enterBlock_delivered (s : State) : (s.enterBlock).delivered = s.delivered := rfl

@[simp] theorem State.endFrame_fi0 (s : State) : (s.endFrame).fi0 = s.fi0 := rfl
@[simp] theorem State.endFrame_fi1 (s : State) : (s.endFrame).fi1 = s.fi1 := rfl
@[simp] theorem State.endFrame_dispatcher (s : State) : (s.endFrame).dispatcher = s.dispatcher := rfl
@[simp] theorem State.endFrame_vcaState (s : State) : (s.endFrame).vcaState = s.vcaState := rfl
@[simp] theorem State.endFrame_delayState (s : State) : (s.endFrame).delayState = s.delayState := rfl
@[simp] theorem State.endFrame_peak (s : State) : (s.endFrame).peak = s.peak := rfl
@[simp] theorem State.endFrame_lm (s : State) : (s.endFrame).lm = s.lm := rfl
@[simp] theorem State.endFrame_acq (s : State) : (s.endFrame).acq = s.acq := rfl
@[simp] theorem State.endFrame_result (s : State) : (s.endFrame).result = s.result := rfl
@[simp] theorem State.endFrame_stopFlag (s : State) : (s.endFrame).stopFlag = s.stopFlag := rfl
@[simp] theorem State.endFrame_fatalFlag (s : State) : (s.endFrame).fatalFlag = s.fatalFlag := rfl
@[simp] theorem State.endFrame_pending (s : State) : (s.endFrame).pending = s.pending := rfl
@[simp] theorem State.endFrame_draws (s : State) : (s.endFrame).draws = s.draws := rfl
@[simp] theorem State.endFrame_delivered (s : State) : (s.endFrame).delivered = s.delivered := rfl

end Sys2Proof.Machine
end

