-- ==== Sys2Proof/Laws/Ops.lean ====
section
/-!
SUPPORT. What the shared operations can do: four-element registers, arithmetic primitives, meters, sequencing.
-/

namespace Sys2Proof

@[simp] theorem Quad.get_set_self {α : Type} (q : Quad α) (i : Fin 4) (v : α) : (q.set i v).get i = v := by
  fin_cases i <;> rfl

theorem Quad.get_set_of_ne {α : Type} (q : Quad α) (i j : Fin 4) (v : α) (h : j ≠ i) :
    (q.set i v).get j = q.get j := by
  fin_cases i <;> fin_cases j <;> first | rfl | exact absurd rfl h

/-- A four-element register is its four elements. -/
theorem Quad.ext_get {α : Type} (q r : Quad α) (h : ∀ i : Fin 4, q.get i = r.get i) : q = r := by
  obtain ⟨a, b, c, d⟩ := q
  obtain ⟨a', b', c', d'⟩ := r
  have h0 : a = a' := h 0
  have h1 : b = b' := h 1
  have h2 : c = c' := h 2
  have h3 : d = d' := h 3
  subst h0 h1 h2 h3
  rfl

namespace Machine

/-! ## Sequencing -/

@[simp] theorem andThen_next (s : State) (k : State → StepOutcome) : andThen (.next s) k = k s := rfl

/-- A sequence that ends in a next state had a next state in between. -/
theorem andThen_eq_next {o : StepOutcome} {k : State → StepOutcome} {t : State} (h : andThen o k = .next t) :
    ∃ s, o = .next s ∧ k s = .next t := by
  cases o with
  | next s => exact ⟨s, rfl, h⟩
  | fault r => cases h
  | refused r => cases h

/-! ## Arithmetic -/

/-- The arithmetic shift is the floor of the division (R10). -/
theorem asr_eq_floor (v : Int) (k : Nat) : asr v k = v / 2 ^ k := by
  simp [asr, Int.shiftRight_eq_div_pow]

theorem clamp_mem {lo hi : Int} (h : lo ≤ hi) (v : Int) : lo ≤ clamp v lo hi ∧ clamp v lo hi ≤ hi := by
  unfold clamp
  omega

theorem clamp_of_mem {v lo hi : Int} (h₁ : lo ≤ v) (h₂ : v ≤ hi) : clamp v lo hi = v := by
  unfold clamp
  omega

/-- An integer in the signed range of a word is kept by narrowing to it. -/
theorem toInt_ofInt_of_mem {w : Nat} (hw : 0 < w) {v : Int} (h₁ : -2 ^ (w - 1) ≤ v) (h₂ : v < 2 ^ (w - 1)) :
    (BitVec.ofInt w v).toInt = v := by
  have hp : (2 : Int) ^ w = 2 * 2 ^ (w - 1) := by
    obtain ⟨n, rfl⟩ : ∃ n, w = n + 1 := ⟨w - 1, by omega⟩
    simp [pow_succ, mul_comm]
  have hp' : ((2 ^ w : Nat) : Int) = 2 * 2 ^ (w - 1) := by push_cast; exact hp
  rw [BitVec.toInt_ofInt]
  exact Int.bmod_eq_of_le_mul_two (by rw [hp']; omega) (by rw [hp']; omega)

/-- The signed value of a word is the narrowed integer's, modulo 2^32. -/
theorem toInt_wrap32 (v : Int) : (wrap32 v).toInt = v.bmod (2 ^ 32) := BitVec.toInt_ofInt v

/-- `sat16` clamps and then loses nothing. -/
theorem toInt_sat16 (v : Int) : (sat16 v).toInt = clamp v (-32768) 32767 := by
  have h := clamp_mem (lo := -32768) (hi := 32767) (by decide) v
  exact toInt_ofInt_of_mem (by decide) (by norm_num; omega) (by norm_num; omega)

/-- Hard saturation clamps and then loses nothing. -/
theorem toInt_clampWord_SAT (x : Word) : (clampWord x SAT).toInt = clamp x.toInt (-SAT) SAT := by
  have h := clamp_mem (lo := -SAT) (hi := SAT) (by decide) x.toInt
  unfold SAT at *
  exact toInt_ofInt_of_mem (by decide) (by norm_num; omega) (by norm_num; omega)

/-- Hard saturation establishes the bound of R18. -/
theorem clampWord_SAT_mem (x : Word) : -SAT ≤ (clampWord x SAT).toInt ∧ (clampWord x SAT).toInt ≤ SAT := by
  rw [toInt_clampWord_SAT]
  exact clamp_mem (by decide) _

/-! ## Meters -/

theorem sampleAbs_le (v : Sample) : sampleAbs v ≤ 32768 := by
  have h₁ := BitVec.le_toInt v
  have h₂ := BitVec.toInt_lt (x := v)
  unfold sampleAbs
  norm_num at h₁ h₂
  omega

/-- A raised meter holds the larger of its two values, without loss. -/
theorem raisePeak_toNat (peak : BitVec 16) (v : Sample) :
    (raisePeak peak v).toNat = max peak.toNat (sampleAbs v) := by
  have h₁ := peak.isLt
  have h₂ := sampleAbs_le v
  unfold raisePeak
  rw [BitVec.toNat_ofNat]
  exact Nat.mod_eq_of_lt (by omega)

theorem le_raisePeak (peak : BitVec 16) (v : Sample) : peak.toNat ≤ (raisePeak peak v).toNat := by
  rw [raisePeak_toNat]
  omega

theorem raisePeak_le (peak : BitVec 16) (v : Sample) (h : peak.toNat ≤ 32768) :
    (raisePeak peak v).toNat ≤ 32768 := by
  rw [raisePeak_toNat]
  have := sampleAbs_le v
  omega

end Machine

end Sys2Proof
end

