-- ==== Sys2Proof/Laws/Filter.lean ====
section
/-!
SUPPORT. What the filter's state transformers keep and write.
-/

namespace Sys2Proof.Machine

@[simp] theorem Filter.finit_eq (fi : Filter) : fi.finit = Filter.cleared := rfl

theorem Filter.cleared_inv : Filter.cleared.Inv := by decide

@[simp] theorem Filter.fsetp_b4 (fi : Filter) (c r : Value12) (m : FilterMode) : (fi.fsetp c r m).b4 = fi.b4 := by
  simp only [Filter.fsetp]

@[simp] theorem Filter.fdup_b4 (src dst : Filter) : (src.fdup dst).b4 = dst.b4 := rfl

@[simp] theorem Filter.fdup_self (fi : Filter) : fi.fdup fi = fi := rfl

theorem Filter.fsetp_inv {fi : Filter} (h : fi.Inv) (c r : Value12) (m : FilterMode) : (fi.fsetp c r m).Inv := by
  rw [Filter.Inv, Filter.fsetp_b4]
  exact h

theorem Filter.fdup_inv {dst : Filter} (h : dst.Inv) (src : Filter) : (src.fdup dst).Inv := h

/-- The settings `fsetp` writes do not depend on the instance it writes them to. -/
theorem Filter.fdup_fsetp (fi fi' dst : Filter) (c r : Value12) (m : FilterMode) :
    (fi.fsetp c r m).fdup dst = (fi'.fsetp c r m).fdup dst := rfl

/-- Saturation bounds b4 after every ladder step, whatever the registers held (R94 line 8). -/
theorem Filter.advance_inv (fi : Filter) (x : Sample) : (fi.advance x).Inv := clampWord_SAT_mem _

/-- All `fproc` can do to an instance: a ladder step, or nothing. -/
theorem Filter.fproc_cases (fi : Filter) (x : Sample) :
    ((fi.fproc x).1 = fi.advance x ∧ (fi.mode = .lowpass ∨ fi.mode = .highpass ∨ fi.mode = .bandpass)) ∨
    (fi.mode = .bypass ∧ fi.fproc x = (fi, x)) ∨ (fi.mode = .disabled ∧ fi.fproc x = (fi, 0)) := by
  unfold Filter.fproc
  cases h : fi.mode <;> simp

theorem Filter.fproc_inv {fi : Filter} (h : fi.Inv) (x : Sample) : (fi.fproc x).1.Inv := by
  obtain ⟨h₁, -⟩ | ⟨-, h₁⟩ | ⟨-, h₁⟩ := fi.fproc_cases x
  · rw [h₁]; exact fi.advance_inv x
  · rw [h₁]; exact h
  · rw [h₁]; exact h

/-- A ladder step writes taps only: coefficients and mode stay. -/
theorem Filter.fproc_settings (fi : Filter) (x : Sample) :
    (fi.fproc x).1.f = fi.f ∧ (fi.fproc x).1.p = fi.p ∧ (fi.fproc x).1.q = fi.q ∧ (fi.fproc x).1.gain = fi.gain ∧
      (fi.fproc x).1.mode = fi.mode := by
  obtain ⟨h₁, -⟩ | ⟨-, h₁⟩ | ⟨-, h₁⟩ := fi.fproc_cases x <;> rw [h₁] <;> exact ⟨rfl, rfl, rfl, rfl, rfl⟩

/-! ## The block loop of a filter effect -/

theorem filterBlock_nil (fl fr : Filter) : filterBlock fl fr [] = (fl, fr, []) := rfl

theorem filterBlock_cons (fl fr : Filter) (l r : Sample) (rest : List Sample) :
    filterBlock fl fr (l :: r :: rest) =
      ((filterBlock (fl.fproc l).1 (fr.fproc r).1 rest).1, (filterBlock (fl.fproc l).1 (fr.fproc r).1 rest).2.1,
        (fl.fproc l).2 :: (fr.fproc r).2 :: (filterBlock (fl.fproc l).1 (fr.fproc r).1 rest).2.2) := rfl

/-- A block of F frames gives a wet block of F frames. -/
theorem filterBlock_length (n : Nat) : ∀ (fl fr : Filter) (xs : List Sample), xs.length = 2 * n →
    (filterBlock fl fr xs).2.2.length = 2 * n := by
  induction n with
  | zero =>
    intro fl fr xs h
    obtain rfl := List.eq_nil_of_length_eq_zero (by simpa using h)
    rfl
  | succ n ih =>
    intro fl fr xs h
    match xs, h with
    | l :: r :: rest, h =>
      rw [filterBlock_cons]
      have := ih (fl.fproc l).1 (fr.fproc r).1 rest (by simp at h; omega)
      simp [this]
      omega

theorem filterBlock_inv (n : Nat) : ∀ (fl fr : Filter) (xs : List Sample), xs.length = 2 * n → fl.Inv → fr.Inv →
    (filterBlock fl fr xs).1.Inv ∧ (filterBlock fl fr xs).2.1.Inv := by
  induction n with
  | zero =>
    intro fl fr xs h hl hr
    obtain rfl := List.eq_nil_of_length_eq_zero (by simpa using h)
    exact ⟨hl, hr⟩
  | succ n ih =>
    intro fl fr xs h hl hr
    match xs, h with
    | l :: r :: rest, h =>
      rw [filterBlock_cons]
      exact ih _ _ rest (by simp at h; omega) (Filter.fproc_inv hl l) (Filter.fproc_inv hr r)

theorem opaqueBlock_length (element : Nat → Sample) (buf : List Sample) :
    (opaqueBlock element buf).length = buf.length := by
  simp [opaqueBlock]

theorem opaqueBlock_getElem? (element : Nat → Sample) (buf : List Sample) (i : Nat) (h : i < buf.length) :
    (opaqueBlock element buf)[i]? = some (element i) := by
  simp [opaqueBlock, h]

end Sys2Proof.Machine
end

