-- ==== Sys2Proof/Laws/Frames.lean ====
section
/-!
SUPPORT. What the audio sequencer's operations can do.
-/

namespace Sys2Proof.Machine

/-! ## Input meters -/

theorem meterInputs_nil (q : Quad (BitVec 16)) : meterInputs q [] = q := rfl

theorem meterInputs_cons (q : Quad (BitVec 16)) (l r : Sample) (rest : List Sample) :
    meterInputs q (l :: r :: rest) =
      meterInputs { q with c0 := raisePeak q.c0 l, c1 := raisePeak q.c1 r } rest := rfl

/-- Metering the inputs writes the two input meters only, and never lowers one. -/
theorem meterInputs_bounds (n : Nat) : ∀ (q : Quad (BitVec 16)) (xs : List Sample), xs.length = 2 * n →
    (meterInputs q xs).c2 = q.c2 ∧ (meterInputs q xs).c3 = q.c3 ∧
    q.c0.toNat ≤ (meterInputs q xs).c0.toNat ∧ q.c1.toNat ≤ (meterInputs q xs).c1.toNat ∧
    (q.c0.toNat ≤ 32768 → (meterInputs q xs).c0.toNat ≤ 32768) ∧
    (q.c1.toNat ≤ 32768 → (meterInputs q xs).c1.toNat ≤ 32768) := by
  induction n with
  | zero =>
    intro q xs h
    obtain rfl := List.eq_nil_of_length_eq_zero (by simpa using h)
    simp [meterInputs_nil]
  | succ n ih =>
    intro q xs h
    match xs, h with
    | l :: r :: rest, h =>
      rw [meterInputs_cons]
      obtain ⟨h2, h3, h0, h1, b0, b1⟩ :=
        ih { q with c0 := raisePeak q.c0 l, c1 := raisePeak q.c1 r } rest (by simp at h; omega)
      exact ⟨h2, h3, le_trans (le_raisePeak _ _) h0, le_trans (le_raisePeak _ _) h1,
        fun h => b0 (raisePeak_le _ _ h), fun h => b1 (raisePeak_le _ _ h)⟩

/-! ## The effects -/

/-- All a run of the active effect can do: it writes Wet, the filter instances (a filter effect) or one hidden state
(an opaque effect), nothing else. -/
theorem State.runEffect_cases (s : State) :
    (s.dispatcher.active = .bypass ∧ s.runEffect = { s with audio := { s.audio with wet := s.audio.buf } }) ∨
    (s.dispatcher.active = .vca ∧ s.runEffect = { s with
      vcaState := Config.vcaNext s.vcaState s.acq.val s.audio.buf
      audio := { s.audio with
        wet := opaqueBlock (Config.vcaSample s.vcaState s.acq.val s.audio.buf) s.audio.buf } }) ∨
    (s.dispatcher.active = .cleanDelay ∧ s.runEffect = { s with
      delayState := Config.delayNext s.delayState s.acq.val s.audio.buf
      audio := { s.audio with
        wet := opaqueBlock (Config.delaySample s.delayState s.acq.val s.audio.buf) s.audio.buf } }) ∨
    ∃ m, ((s.dispatcher.active = .lowpass ∧ m = .lowpass) ∨ (s.dispatcher.active = .highpass ∧ m = .highpass) ∨
      (s.dispatcher.active = .bandpass ∧ m = .bandpass)) ∧ s.runEffect = s.runFilterEffect m := by
  unfold State.runEffect
  cases s.dispatcher.active
  all_goals simp

/-- The wet block has as many Samples as the input block, whatever the effect. -/
theorem State.runEffect_wet_length (s : State) (n : Nat) (h : s.audio.buf.length = 2 * n) :
    s.runEffect.audio.wet.length = 2 * n := by
  obtain ⟨-, e⟩ | ⟨-, e⟩ | ⟨-, e⟩ | ⟨m, -, e⟩ := s.runEffect_cases <;> rw [e]
  · exact h
  · exact (opaqueBlock_length _ _).trans h
  · exact (opaqueBlock_length _ _).trans h
  · exact filterBlock_length n _ _ _ h

/-- An effect writes Wet, the filter instances and the hidden states at most. -/
theorem State.runEffect_frame (s : State) :
    s.runEffect = { s with audio := { s.audio with wet := s.runEffect.audio.wet }, fi0 := s.runEffect.fi0,
                           fi1 := s.runEffect.fi1, vcaState := s.runEffect.vcaState,
                           delayState := s.runEffect.delayState } := by
  obtain ⟨-, e⟩ | ⟨-, e⟩ | ⟨-, e⟩ | ⟨m, -, e⟩ := s.runEffect_cases
  · rw [e]
  · rw [e]
  · rw [e]
  · rw [e]
    rfl

/-- A block that is not admitted is refused; one that is admitted is taken. -/
theorem blockStart_cases (p : Params) (frames : Nat) (xs : List Sample) (now : Word) (s : State) :
    (blockStartEnabled p frames xs s = false ∧ blockStart p frames xs now s = .next s) ∨
    ((s.audio.phase = .idle ∧ s.stopFlag = false ∧ frames ≤ p.maxFrames ∧ xs.length = 2 * frames) ∧
      blockStart p frames xs now s = .next (s.takeBlock p frames xs now).runEffect.enterBlock) := by
  unfold blockStart
  cases h : blockStartEnabled p frames xs s
  · exact .inl ⟨rfl, rfl⟩
  · exact .inr ⟨by simpa [blockStartEnabled] using h, rfl⟩

/-! ## FRAME -/

/-- A lane that completes has read one element of Buf and one of Wet, and wrote that element and its output meter. -/
theorem frameLane_next {w : Int} {g : Nat} {ch : Chan} {s t : State} (h : frameLane w g ch s = .next t) :
    ∃ dry wet, s.readBuf (2 * s.audio.n + laneOffset ch) = some dry ∧
      s.readWet (2 * s.audio.n + laneOffset ch) = some wet ∧
      t = (s.writeBuf (2 * s.audio.n + laneOffset ch) (muteApply (mix w wet dry) g)).setPeak (outMeter ch)
        (raisePeak (s.peak.get (outMeter ch)) (muteApply (mix w wet dry) g)) := by
  simp only [frameLane] at h
  cases hd : s.readBuf (2 * s.audio.n + laneOffset ch) with
  | none => simp [hd] at h
  | some dry =>
    cases hw : s.readWet (2 * s.audio.n + laneOffset ch) with
    | none => simp [hd, hw] at h
    | some wet =>
      rw [hd, hw] at h
      cases h
      exact ⟨dry, wet, rfl, rfl, rfl⟩

/-- One lane of a FRAME step changes elements of Buf and no other part of the audio sequencer. -/
theorem frameLane_audio {w : Int} {g : Nat} {ch : Chan} {s t : State} (h : frameLane w g ch s = .next t) :
    t.audio = { s.audio with buf := t.audio.buf } ∧ t.audio.buf.length = s.audio.buf.length := by
  obtain ⟨_, _, -, -, rfl⟩ := frameLane_next h
  simp [State.setPeak, State.writeBuf]

/-- A lane whose elements exist completes. -/
theorem frameLane_of_lt (w : Int) (g : Nat) (ch : Chan) (s : State)
    (hb : 2 * s.audio.n + laneOffset ch < s.audio.buf.length)
    (hw : 2 * s.audio.n + laneOffset ch < s.audio.wet.length) : ∃ t, frameLane w g ch s = .next t := by
  simp [frameLane, State.readBuf, State.readWet, List.getElem?_eq_getElem hb, List.getElem?_eq_getElem hw]

/-- All FRAME can do when it completes: nothing, or both lanes and then the end of the frame. -/
theorem frame_cases {s t : State} (h : frame s = .next t) :
    (frameEnabled s = false ∧ t = s) ∨
    (s.audio.phase = .inBlock ∧ s.audio.n < s.audio.frames ∧ ∃ s1 s2,
      frameLane (wetGain s.audio.prevWet s.audio.currWet s.audio.n s.audio.frames) s.mute.gainNum .left s = .next s1 ∧
      frameLane (wetGain s.audio.prevWet s.audio.currWet s.audio.n s.audio.frames) s.mute.gainNum .right s1 =
        .next s2 ∧ t = s2.endFrame) := by
  unfold frame at h
  cases he : frameEnabled s
  · rw [he] at h
    cases h
    exact .inl ⟨rfl, rfl⟩
  · rw [he] at h
    obtain ⟨s1, h1, h⟩ := andThen_eq_next h
    obtain ⟨s2, h2, h⟩ := andThen_eq_next h
    cases h
    have he' : s.audio.phase = .inBlock ∧ s.audio.n < s.audio.frames := by simpa [frameEnabled] using he
    exact .inr ⟨he'.1, he'.2, s1, s2, h1, h2, rfl⟩

/-- What FRAME leaves alone when it completes: everything but Buf, n, the mute machine and the meters. -/
theorem frame_frame {s t : State} (h : frame s = .next t) :
    t = { s with audio := { s.audio with buf := t.audio.buf, n := t.audio.n }, mute := t.mute, peak := t.peak } := by
  obtain ⟨-, rfl⟩ | ⟨-, -, s1, s2, h1, h2, rfl⟩ := frame_cases h
  · rfl
  · obtain ⟨_, _, -, -, rfl⟩ := frameLane_next h1
    obtain ⟨_, _, -, -, rfl⟩ := frameLane_next h2
    rfl

/-- An enabled FRAME completes where Buf and Wet hold 2F Samples, and keeps the sequencer's shape. -/
theorem frame_completes {s : State} (hp : s.audio.phase = .inBlock) (hn : s.audio.n < s.audio.frames)
    (hb : s.audio.buf.length = 2 * s.audio.frames) (hw : s.audio.wet.length = 2 * s.audio.frames) :
    ∃ t, frame s = .next t ∧ t.audio = { s.audio with buf := t.audio.buf, n := s.audio.n + 1 } ∧
      t.audio.buf.length = 2 * s.audio.frames := by
  have he : frameEnabled s = true := by simp [frameEnabled, hp, hn]
  obtain ⟨s1, h1⟩ := frameLane_of_lt (wetGain s.audio.prevWet s.audio.currWet s.audio.n s.audio.frames) s.mute.gainNum
    .left s (by simp only [laneOffset]; omega) (by simp only [laneOffset]; omega)
  obtain ⟨e1, l1⟩ := frameLane_audio h1
  have n1 : s1.audio.n = s.audio.n := by rw [e1]
  have w1 : s1.audio.wet = s.audio.wet := by rw [e1]
  obtain ⟨s2, h2⟩ := frameLane_of_lt (wetGain s.audio.prevWet s.audio.currWet s.audio.n s.audio.frames) s.mute.gainNum
    .right s1 (by simp only [laneOffset]; omega) (by simp only [laneOffset, w1]; omega)
  obtain ⟨e2, l2⟩ := frameLane_audio h2
  refine ⟨s2.endFrame, by simp only [frame, he, if_true, h1, andThen_next, h2], ?_, ?_⟩
  · simp only [State.endFrame]
    rw [e2, e1]
  · simp only [State.endFrame]
    omega

/-- BLOCK_END does nothing, or ends a block all of whose frames are done. -/
theorem blockEnd_cases (now : Word) (s : State) :
    (blockEndEnabled s = false ∧ blockEnd now s = .next s) ∨
    (s.audio.phase = .inBlock ∧ s.audio.n = s.audio.frames ∧ blockEnd now s = .next { s with
      lm := LoadMonitor.update { s.lm with tsExit := now }
      audio := { s.audio with prevWet := s.audio.currWet, phase := .idle }
      delivered := s.audio.buf :: s.delivered }) := by
  unfold blockEnd
  cases h : blockEndEnabled s
  · exact .inl ⟨rfl, rfl⟩
  · have h' : s.audio.phase = .inBlock ∧ s.audio.n = s.audio.frames := by simpa [blockEndEnabled] using h
    exact .inr ⟨h'.1, h'.2, rfl⟩

end Sys2Proof.Machine
end

