-- ==== Sys2Proof/Laws/Step.lean ====
section
/-!
SUPPORT. What one step, one event and one command can do: the inversion lemmas later proofs cite.
-/

namespace Sys2Proof.Machine

/-! ## The step -/

theorem step_of_pending {s : State} {e : Event} {rest : List Event} (h : s.pending = e :: rest) :
    step s = perform e { s with pending := rest } := by
  simp [step, nextEvent, h]

theorem step_of_nothing_pending {s : State} (h : s.pending = []) :
    step s = perform (Config.offer s.draws) { s with draws := s.draws + 1 } := by
  simp [step, nextEvent, h]

/-- All a step can do: perform one event in a state that differs in the model's own fields only. -/
theorem step_cases (s : State) : ∃ e s0, step s = perform e s0 ∧
    ((∃ rest, s.pending = e :: rest ∧ s0 = { s with pending := rest }) ∨
      (s.pending = [] ∧ e = Config.offer s.draws ∧ s0 = { s with draws := s.draws + 1 })) := by
  cases h : s.pending with
  | nil => exact ⟨Config.offer s.draws, { s with draws := s.draws + 1 }, step_of_nothing_pending h, .inr ⟨rfl, rfl, by rw [← h]⟩⟩
  | cons e rest => exact ⟨e, { s with pending := rest }, step_of_pending h, .inl ⟨rest, rfl, rfl⟩⟩

/-! ## The control-channel event -/

theorem acqTick_cases (p : Params) (r : Reading) (s : State) :
    (s.stopFlag = true ∧ acqTick p r s = .next s) ∨
    (s.stopFlag = false ∧ acqTick p r s = .next { s with acq := s.acq.tick p r }) := by
  unfold acqTick
  cases s.stopFlag <;> simp

/-! ## SELECT, MUTE and the dispatcher -/

theorem execSelect_cases (idx : BitVec 3) (s : State) :
    execSelect idx s = .next s ∨
    (s.dispatcher.selPhase = .idle ∧ ∃ e, effectOfIndex idx = some e ∧ execSelect idx s = .next { s with dispatcher :=
      { s.dispatcher with selPrev := s.dispatcher.active, selNew := e, selPhase := .p1 } }) := by
  unfold execSelect
  cases h₁ : effectOfIndex idx <;> cases h₂ : s.dispatcher.selPhase <;> simp

theorem execMute_cases (on : Bool) (s : State) :
    execMute on s = .next s ∨
    (on = true ∧ s.mute.state = .passThrough ∧
      execMute on s = .next { s with mute := { state := .rampToMute, count := 512 } }) ∨
    (on = false ∧ s.mute.state = .muted ∧
      execMute on s = .next { s with mute := { state := .rampToUnmute, count := 0 } }) := by
  unfold execMute
  cases on <;> cases h : s.mute.state <;> simp

/-- All SEL_STEP can do. -/
theorem selStep_cases (p : Params) (s : State) :
    (s.dispatcher.selPhase = .idle ∧ selStep p s = .next s) ∨
    (s.dispatcher.selPhase = .p1 ∧ selStep p s = .next (selStep1 s)) ∨
    (s.dispatcher.selPhase = .p2 ∧ selStep p s = .next (s.setSelPhase .p3)) ∨
    (s.dispatcher.selPhase = .p3 ∧ selStep p s = .next (selStep3 p s)) ∨
    (s.dispatcher.selPhase = .p4 ∧ selStep p s = .next (selStep4 s)) := by
  unfold selStep
  cases h : s.dispatcher.selPhase <;> simp [selStep2, State.cleanup]

/-- All micro-step 3 can do: a filter effect's instances cleared, an opaque state initialised, nothing, or a failure
reported. -/
theorem selStep3_cases (p : Params) (s : State) :
    (s.dispatcher.selNew = .bypass ∧ selStep3 p s = s.setSelPhase .p4) ∨
    ((s.dispatcher.selNew = .lowpass ∨ s.dispatcher.selNew = .highpass ∨ s.dispatcher.selNew = .bandpass) ∧
      selStep3 p s = s.initFilters.setSelPhase .p4) ∨
    (s.dispatcher.selNew = .vca ∧ p.vcaInitOk = true ∧
      selStep3 p s = ({ s with vcaState := Config.vcaInit } : State).setSelPhase .p4) ∨
    (s.dispatcher.selNew = .cleanDelay ∧ p.delayInitOk = true ∧
      selStep3 p s = ({ s with delayState := Config.delayInit } : State).setSelPhase .p4) ∨
    (((s.dispatcher.selNew = .vca ∧ p.vcaInitOk = false) ∨
      (s.dispatcher.selNew = .cleanDelay ∧ p.delayInitOk = false)) ∧ selStep3 p s = s.reportInitFailure) := by
  unfold selStep3
  cases h : s.dispatcher.selNew <;> cases h₁ : p.vcaInitOk <;> cases h₂ : p.delayInitOk <;> simp

/-- The mute machine's own invariant is kept by its advance (R25, R103). -/
theorem Mute.advance_inv {m : Mute} (h : m.Inv) : m.advance.Inv := by
  obtain ⟨st, c⟩ := m
  obtain ⟨h0, h1, h2, h3, h4⟩ := h
  cases st
  · exact ⟨h0, h1, h2, h3, h4⟩
  · have hc := h3 rfl
    simp only [Mute.advance, Mute.Inv] at *
    split <;> rename_i hz <;> simp <;> bv_omega
  · exact ⟨h0, h1, h2, h3, h4⟩
  · have hc := h4 rfl
    simp only [Mute.advance, Mute.Inv] at *
    split <;> rename_i hz <;> simp <;> bv_omega

/-! ## No step reads or writes the list of pending events -/

theorem frameLane_pending {w : Int} {g : Nat} {ch : Chan} {s t : State} (q : List Event)
    (h : frameLane w g ch s = .next t) :
    frameLane w g ch { s with pending := q } = .next { t with pending := q } := by
  obtain ⟨d, wt, h1, h2, rfl⟩ := frameLane_next h
  have h1' : State.readBuf { s with pending := q } (2 * s.audio.n + laneOffset ch) = some d := h1
  have h2' : State.readWet { s with pending := q } (2 * s.audio.n + laneOffset ch) = some wt := h2
  simp only [frameLane, h1', h2']
  rfl

theorem exec_pending {i : Instr} {s t : State} (q : List Event) (h : exec i s = .next t) :
    exec i { s with pending := q } = .next { t with pending := q } := by
  cases i <;> simp only [exec] at h ⊢
  case select =>
    unfold execSelect at h ⊢
    split at h <;> cases h <;> simp_all
  case mute =>
    unfold execMute at h ⊢
    split at h <;> cases h <;> simp_all
  case fsetp ch _ _ _ =>
    unfold execFsetp at h ⊢
    split at h <;> cases h <;> simp_all
    cases ch <;> rfl
  case fproc ch _ => cases h; cases ch <;> rfl
  case fdup src dst => cases h; cases src <;> cases dst <;> rfl
  case finit ch => cases h; cases ch <;> rfl
  all_goals cases h; rfl

theorem frame_pending {s t : State} (q : List Event) (h : frame s = .next t) :
    frame { s with pending := q } = .next { t with pending := q } := by
  obtain ⟨h0, rfl⟩ | ⟨h0, hl, s1, s2, h1, h2, rfl⟩ := frame_cases h
  · have : frameEnabled { t with pending := q } = false := h0
    simp [frame, this]
  · have : frameEnabled { s with pending := q } = true := by simp [frameEnabled, h0, hl]
    have e1 := frameLane_pending q h1
    have e2 := frameLane_pending q h2
    simp only [frame, this, if_true]
    rw [e1, andThen_next, e2, andThen_next]
    rfl

/-- A step's effect is the same whatever is still pending, so a list of pending events is a schedule and no more. -/
theorem performWith_pending {p : Params} {e : Event} {s t : State} (q : List Event)
    (h : performWith p e s = .next t) :
    performWith p e { s with pending := q } = .next { t with pending := q } := by
  cases e with
  | command w => exact exec_pending q h
  | blockStart f xs now =>
    simp only [performWith] at h ⊢
    have e : blockStartEnabled p f xs { s with pending := q } = blockStartEnabled p f xs s := rfl
    unfold blockStart at h ⊢
    rw [e]
    split at h <;> cases h <;> simp_all
    simp only [State.runEffect, State.takeBlock, State.enterBlock, State.runFilterEffect]
    cases s.dispatcher.active <;> rfl
  | frame => exact frame_pending q h
  | blockEnd now =>
    simp only [performWith] at h ⊢
    have e : blockEndEnabled { s with pending := q } = blockEndEnabled s := rfl
    unfold blockEnd at h ⊢
    rw [e]
    split at h <;> cases h <;> simp_all
  | acqTick r =>
    simp only [performWith] at h ⊢
    unfold acqTick at h ⊢
    split at h <;> cases h <;> simp_all
  | selStep =>
    simp only [performWith] at h ⊢
    unfold selStep at h ⊢
    split at h <;> cases h <;> simp_all [selStep1, selStep2, selStep3, selStep4, State.cleanup, State.setSelPhase]
    cases s.dispatcher.selNew <;> simp <;> split <;> rfl
  | reset => cases h; rfl

end Sys2Proof.Machine
end

