-- ==== Sys2Proof/Laws/Fairness.lean ====
section
/-!
SUPPORT. When each agent has an enabled step, what a run is a run of, and how a weakly fair run makes progress.
-/

namespace Sys2Proof.Machine

/-! ## When an agent has an enabled step -/

@[simp] theorem Agent.hasStep_dispatcher (p : Params) (offers : List Event) (s : State) :
    Agent.dispatcher.HasStep p offers s ↔ s.dispatcher.selPhase ≠ .idle := by
  constructor
  · rintro ⟨e, ha, he, -⟩
    cases e <;> simp_all [Event.agent, Event.enabled]
  · exact fun h => ⟨.selStep, rfl, by simpa [Event.enabled] using h, by simp [Event.handedOver]⟩

@[simp] theorem Agent.hasStep_acquisition (p : Params) (offers : List Event) (s : State) :
    Agent.acquisition.HasStep p offers s ↔ s.stopFlag = false := by
  constructor
  · rintro ⟨e, ha, he, -⟩
    cases e <;> simp_all [Event.agent, Event.enabled]
  · exact fun h => ⟨.acqTick .error, rfl, by simpa [Event.enabled] using h, by simp [Event.handedOver]⟩

@[simp] theorem Agent.hasStep_commandPort (p : Params) (offers : List Event) (s : State) :
    Agent.commandPort.HasStep p offers s ↔ ∃ w, Event.command w ∈ offers := by
  constructor
  · rintro ⟨e, ha, -, ho⟩
    cases e <;> simp_all [Event.agent, Event.handedOver]
    exact ⟨_, ho⟩
  · rintro ⟨w, h⟩
    exact ⟨.command w, rfl, rfl, fun _ => h⟩

/-- A block in progress is the audio sequencer's own work: it needs no offer (R71, R115). -/
theorem Agent.hasStep_audio_of_inBlock (p : Params) (offers : List Event) {s : State} (h : s.audio.phase = .inBlock)
    (hn : s.audio.n ≤ s.audio.frames) : Agent.audio.HasStep p offers s := by
  rcases Nat.lt_or_eq_of_le hn with hlt | heq
  · exact ⟨.frame, rfl, by simp [Event.enabled, frameEnabled, h, hlt], by simp [Event.handedOver]⟩
  · exact ⟨.blockEnd 0, rfl, by simp [Event.enabled, blockEndEnabled, h, heq], by simp [Event.handedOver]⟩

/-! ## Progress -/

/-- The proof rule of weak fairness: an agent that has a step as long as `goal` does not hold, takes one or reaches
`goal`. -/
theorem FairRun.reaches_or_takes {p : Params} {offers : Nat → List Event} {events : Nat → Event} {states : Nat → State}
    (r : FairRun p offers events states) (a : Agent) (goal : State → Prop) (k : Nat)
    (h : ∀ j, k ≤ j → ¬ goal (states j) → a.HasStep p (offers j) (states j)) :
    ∃ j, k ≤ j ∧ (goal (states j) ∨ ((events j).agent = some a ∧ (events j).enabled p (states j) = true)) := by
  by_cases hg : ∃ j, k ≤ j ∧ goal (states j)
  · obtain ⟨j, hj, hg⟩ := hg
    exact ⟨j, hj, .inl hg⟩
  · obtain ⟨j, hj, ht⟩ := r.fair a k fun j hj => h j hj fun hgj => hg ⟨j, hj, hgj⟩
    exact ⟨j, hj, .inr ht⟩

/-- What every step keeps holds at every moment of a run. -/
theorem IsRun.always {p : Params} {offers : Nat → List Event} {events : Nat → Event} {states : Nat → State}
    (r : IsRun p offers events states) (I : State → Prop) (h0 : I (states 0))
    (hs : ∀ e s t, I s → performWith p e s = .next t → I t) (k : Nat) : I (states k) := by
  induction k with
  | zero => exact h0
  | succ k ih => exact hs _ _ _ ih (r.steps k)

end Sys2Proof.Machine
end

