-- ==== Sys2Proof/Laws/PerInstr.lean ====
section
/-!
SUPPORT. A fact about every command as syntax, one lemma per constructor: the opcode field of its word is the row's
number in the table (30_encoding.md R54).
-/

namespace Sys2Proof.Laws.WordForm

/-- The row of R54 a command stands on. -/
def opcodeOf : Instr → BitVec 4
  | .nop => 0x0
  | .fsetp _ _ _ _ => 0x1
  | .fproc _ _ => 0x2
  | .fdup _ _ => 0x3
  | .finit _ => 0x4
  | .select _ => 0x5
  | .mute _ => 0x6
  | .getlevel _ => 0x7
  | .getload => 0x8
  | .rdstat _ => 0x9
  | .stop => 0xA
  | .reservedB => 0xB
  | .reservedC => 0xC
  | .reservedD => 0xD
  | .reservedE => 0xE
  | .reservedF => 0xF

/-- The command's word carries its opcode in bits 31:28. -/
def Statement (i : Instr) : Prop := (bitField (encode i) 28 4).toNat = (opcodeOf i).toNat

theorem nop : Statement .nop := by unfold Statement; decide

theorem fsetp (ch : Chan) (mode : BitVec 3) (cutoff res : Value12) : Statement (.fsetp ch mode cutoff res) := by
  have h₁ := mode.isLt
  have h₂ := cutoff.isLt
  have h₃ := res.isLt
  cases ch <;> simp [Statement, bitField_toNat, encode, encodeNat, placed, placedBit, Chan.bit, opcodeOf] <;> omega

theorem fproc (ch : Chan) (sample : Sample) : Statement (.fproc ch sample) := by
  have h₁ := sample.isLt
  cases ch <;> simp [Statement, bitField_toNat, encode, encodeNat, placed, placedBit, Chan.bit, opcodeOf] <;> omega

theorem fdup (src dst : Chan) : Statement (.fdup src dst) := by
  unfold Statement
  cases src <;> cases dst <;> decide

theorem finit (ch : Chan) : Statement (.finit ch) := by
  unfold Statement
  cases ch <;> decide

theorem select (idx : BitVec 3) : Statement (.select idx) := by
  have h₁ := idx.isLt
  simp [Statement, bitField_toNat, encode, encodeNat, placed, opcodeOf]
  omega

theorem mute (on : Bool) : Statement (.mute on) := by
  unfold Statement
  cases on <;> decide

theorem getlevel (idx : BitVec 2) : Statement (.getlevel idx) := by
  have h₁ := idx.isLt
  simp [Statement, bitField_toNat, encode, encodeNat, placed, opcodeOf]
  omega

theorem getload : Statement .getload := by unfold Statement; decide

theorem rdstat (reg : BitVec 8) : Statement (.rdstat reg) := by
  have h₁ := reg.isLt
  simp [Statement, bitField_toNat, encode, encodeNat, placed, opcodeOf]
  omega

theorem stop : Statement .stop := by unfold Statement; decide

theorem reservedB : Statement .reservedB := by unfold Statement; decide

theorem reservedC : Statement .reservedC := by unfold Statement; decide

theorem reservedD : Statement .reservedD := by unfold Statement; decide

theorem reservedE : Statement .reservedE := by unfold Statement; decide

theorem reservedF : Statement .reservedF := by unfold Statement; decide

end Sys2Proof.Laws.WordForm
end

