-- ==== Sys2Proof/Tests/Slice0.lean ====
section
/-!
SUPPORT. Small tests, each expected value from spec/95_test_vectors.md or from a rule's own example, and a witness for
the hypotheses of every statement that has some.
-/

namespace Sys2Proof.Tests

open Sys2Proof Sys2Proof.Machine Sys2Proof.Reference

/-- The state a step ends in, if it ends in one. -/
def nextOf : StepOutcome → Option State
  | .next s => some s
  | .fault _ => none
  | .refused _ => none

/-- One field of the state a command ends in. -/
def afterCommand {α : Type} (i : Instr) (s : State) (field : State → α) : Option α := (nextOf (exec i s)).map field

/-- One field of the state an event ends in, under the default parameters of R8. -/
def afterEvent {α : Type} (e : Event) (s : State) (field : State → α) : Option α :=
  (nextOf (performWith Config.defaults e s)).map field

/-- A filter as after FINIT and FSETP LP, 1024, 0 (95 section 2.2). -/
def lowpass1024 : Filter := { Filter.cleared with f := -1677724, p := 3355442, gain := 8388608, mode := .lowpass }

/-- Reset with that filter as FI[0]. -/
def filterState : State := { State.reset with fi0 := lowpass1024 }

/-- A block of one frame in progress: R70's example values. -/
def blockState : State :=
  { State.reset with audio :=
    { phase := .inBlock, frames := 1, n := 0, buf := [0, 0], wet := [1000, 0], prevWet := 2048, currWet := 2048 } }

/-- The same block with its frame done. -/
def doneState : State := { blockState with audio := { blockState.audio with n := 1 } }

/-- A switch from Bypass to the given effect, at the given phase. -/
def switchState (phase : SelPhase) (new : Effect) : State :=
  { State.reset with dispatcher := { active := .bypass, selPhase := phase, selPrev := .bypass, selNew := new } }

/-- Reset with the given effect active. -/
def effectState (e : Effect) : State :=
  { State.reset with dispatcher := { State.reset.dispatcher with active := e } }

/-- Reset with the given mute machine. -/
def muteStateOf (m : Mute) : State := { State.reset with mute := m }

/-- Reset with the stop flag set. -/
def stoppedState : State := { State.reset with stopFlag := true }

/-- A block of 512 frames of silence in progress, the mute machine as given. -/
def longBlock (m : Mute) : State :=
  { State.reset with
    mute := m
    audio := { phase := .inBlock, frames := 512, n := 0, buf := List.replicate 1024 0, wet := List.replicate 1024 0,
               prevWet := 0, currWet := 0 } }

/-- A run of k FRAME steps of one block counts them all. -/
theorem frames_counted : ∀ (k : Nat) (s : State) (c : Nat), s.audio.phase = .inBlock →
    s.audio.n + k ≤ s.audio.frames → s.audio.buf.length = 2 * s.audio.frames →
    s.audio.wet.length = 2 * s.audio.frames →
    ∃ t, runCountingFrames (List.replicate k .frame) s c = some (t, c + k)
  | 0, s, c, _, _, _, _ => ⟨s, rfl⟩
  | k + 1, s, c, hp, hn, hb, hw => by
    obtain ⟨t, ht, ha, hl⟩ := frame_completes hp (by omega) hb hw
    have hp' : t.audio.phase = .inBlock := by rw [ha]; exact hp
    have hf : t.audio.frames = s.audio.frames := by rw [ha]
    have hn' : t.audio.n = s.audio.n + 1 := by rw [ha]
    have hw' : t.audio.wet = s.audio.wet := by rw [ha]
    have he : frameEnabled s = true := by simp [frameEnabled, hp]; omega
    obtain ⟨u, hu⟩ := frames_counted k t (c + 1) hp' (by omega) (by omega) (by rw [hw']; omega)
    refine ⟨u, ?_⟩
    have : perform .frame s = .next t := ht
    simp only [List.replicate_succ, runCountingFrames, this, he, and_self, if_true, hu]
    congr 2; omega

/-- Stopped, with a block done but not ended and a switch one micro-step from its end. -/
def busyState : State :=
  { doneState with
    stopFlag := true
    dispatcher := { active := .bypass, selPhase := .p4, selPrev := .bypass, selNew := .lowpass } }

/-- That state with its block ended. -/
def endedState : State :=
  { busyState with
    audio := { busyState.audio with phase := .idle, prevWet := 2048 }
    lm := { busyState.lm with tsExit := 7 }
    delivered := [[0, 0]] }

/-- A run's events: the block ends, the switch ends, the host issues NOPs for ever. -/
def fairEvents : Nat → Event
  | 0 => .blockEnd 7
  | 1 => .selStep
  | _ + 2 => .command 0

/-- The states of that run. -/
def fairStates : Nat → State
  | 0 => busyState
  | 1 => endedState
  | _ + 2 => selStep4 endedState

/-- The run is weakly fair under every choice of the parameters. -/
theorem fairRun (p : Params) : FairRun p (fun _ => [.command 0]) fairEvents fairStates where
  steps k := match k with
    | 0 => rfl
    | 1 => rfl
    | _ + 2 => rfl
  offered k h := match k with
    | 0 => nomatch h
    | 1 => nomatch h
    | _ + 2 => List.mem_singleton.2 rfl
  fair a k h := by
    cases a with
    | audio =>
      obtain ⟨e, ha, he, ho⟩ := h (k + 2) (by omega)
      cases e with
      | blockStart f xs now => simp [Event.handedOver] at ho
      | frame => exact nomatch he
      | blockEnd now => exact nomatch he
      | command w => exact nomatch ha
      | acqTick r => exact nomatch ha
      | selStep => exact nomatch ha
      | reset => exact nomatch ha
    | acquisition => exact nomatch (Agent.hasStep_acquisition p _ _).1 (h (k + 2) (by omega))
    | commandPort => exact ⟨k + 2, by omega, rfl, rfl⟩
    | dispatcher => exact absurd rfl ((Agent.hasStep_dispatcher p _ _).1 (h (k + 2) (by omega)))

/-! ## Well-formedness: an ill-formed term for each check (93 U1, U3) -/

theorem test_wellFormed_refuses_mode_5 : (Instr.fsetp .left 5 0 0).wellFormed = false := by decide
theorem test_wellFormed_accepts_mode_4 : (Instr.fsetp .left 4 0 0).wellFormed = true := by decide
theorem test_wellFormed_refuses_select_6 : (Instr.select 6).wellFormed = false := by decide
theorem test_wellFormed_accepts_select_5 : (Instr.select 5).wellFormed = true := by decide
theorem test_wellFormed_refuses_reserved_opcodes :
    [Instr.reservedB, .reservedC, .reservedD, .reservedE, .reservedF].all (fun i => !i.wellFormed) = true := by decide

/-! ## Decoding: words written out from the formats of R47 to R52 -/

theorem test_decode_nop : decode 0b00000000000000000000000000000000 = .nop := by decide
theorem test_decode_fsetp : decode 0b00011010000000000001100000000010 = .fsetp .right 2 1 2050 := by decide
theorem test_decode_fproc : decode 0b00101000000000001100000000000000 = .fproc .right (-16384) := by decide
theorem test_decode_fdup : decode 0b00110100000000000000000000000000 = .fdup .left .right := by decide
theorem test_decode_finit : decode 0b01001000000000000000000000000000 = .finit .right := by decide
theorem test_decode_select : decode 0b01010000000000000000000000000101 = .select 5 := by decide
theorem test_decode_mute : decode 0b01100000000000000000000000000001 = .mute true := by decide
theorem test_decode_getlevel : decode 0b01110000000000000000000000001110 = .getlevel 2 := by decide
theorem test_decode_getload : decode 0b10000000000000000000000000000000 = .getload := by decide
theorem test_decode_rdstat : decode 0b10010000000000000000000000101000 = .rdstat 0x28 := by decide
theorem test_decode_stop : decode 0b10100000000000000000000000000000 = .stop := by decide
theorem test_decode_reserved :
    [0b10110000000000000000000000000000, 0b11000000000000000000000000000000, 0b11010000000000000000000000000000,
      0b11100000000000000000000000000000, 0b11111111111111111111111111111111].map decode =
    [.reservedB, .reservedC, .reservedD, .reservedE, .reservedF] := by decide
theorem test_encode_words :
    [Instr.fsetp .left 0 2048 2048, .fproc .right (-16384), .fdup .left .right, .finit .right, .mute true,
      .rdstat 0x28].map encode =
    [0x10800800, 0x2800C000, 0x34000000, 0x48000000, 0x60000001, 0x90000028] := by decide
theorem test_decodeTableWord : decodeTableWord 32 0x50000003 = some (.select 3) := by decide
theorem test_step_runs_the_fetched_word :
    (nextOf (step (State.reset.withFetchWord 32 0x60000001))).map (fun t => (t.mute, t.pending)) =
    some ({ state := .rampToMute, count := 512 }, []) := by decide

/-! ## Arithmetic (95 sections 2.1, 2.3, 3.1 to 3.3, 5) -/

theorem test_mult : [mult (-1) 1, mult 4194304 3, mult (-4194304) 3, mult 0x7FFFFFFF 0x7FFFFFFF,
    mult (-2147483648) (-2147483648), mult (-2147483648) 0x7FFFFFFF, mult 83886080 83886080] =
    [-1, 1, -2, -512, 0, 256, 838860800] := by decide
theorem test_fixedToSample : [-129, -128, 127, 128, 8388480, 9000000, -8388736, -8388737].map fixedToSample =
    [-1, 0, 0, 1, 32767, 32767, -32768, -32768] := by decide
theorem test_softClip_wraps : clampWord (softClip 153062982) SAT = 83886080 := by decide
theorem test_shape : [0, 255, 256, 2048, 3000, 3954, 3955, 4095].map shape = [0, 0, 1, 512, 1609, 3684, 3687, 4093] := by
  decide
theorem test_wetGain_falls_by_truncation :
    [wetGain 4095 0 0 4, wetGain 4095 0 1 4, wetGain 4095 0 2 4, wetGain 4095 0 3 4] = [4095, 3072, 2048, 1024] := by
  decide
theorem test_mix_floors : [mix 2048 1 0, mix 0 7 1000, mix 0 7 (-1), mix 4095 (-32768) 5, mix 4095 32767 5] =
    [0, 999, -1, -32760, 32759] := by decide
theorem test_muteApply : [muteApply 1000 511, muteApply (-1000) 511, muteApply (-32768) 1, muteApply 32767 2] =
    [998, -999, -64, 127] := by decide

/-! ## Commands -/

theorem test_fsetp_coefficients :
    afterCommand (.fsetp .left 0 2048 2048) State.reset (fun t => (t.fi0.f, t.fi0.p, t.fi0.q, t.fi0.gain, t.fi0.mode)) =
    some (3355442, 5872025, 6186598, 16777216, .lowpass) := by decide
theorem test_fsetp_override_of_bandpass :
    afterCommand (.fsetp .right 2 4000 1000) State.reset (fun t => (t.fi1.q, t.fi1.mode)) =
    some (2071511, .disabled) := by decide
theorem test_fproc_first_sample_taps : lowpass1024.advance 16384 =
    { lowpass1024 with b0 := 4194304, b1 := 1677721, b2 := 671088, b3 := 268435, b4 := 107371 } := by decide
theorem test_fproc_first_sample : (lowpass1024.fproc 16384).2 = 419 := by
  show fixedToSample (lowpass1024.advance 16384).lowpassTap = 419
  rw [test_fproc_first_sample_taps]
  decide
theorem test_fproc_bypass_answers_the_input :
    afterCommand (.fproc .left (-5)) { filterState with fi0 := { lowpass1024 with mode := .bypass } } (fun t => t.result) =
    some (-5) := by decide
theorem test_fdup_copies_mode : afterCommand (.fdup .left .right) filterState (fun t => (t.fi1.p, t.fi1.mode)) =
    some (3355442, .lowpass) := by decide
theorem test_finit_clears : afterCommand (.finit .left) filterState (fun t => t.fi0) = some Filter.cleared := by decide
theorem test_select_3 : afterCommand (.select 3) State.reset (fun t => t.dispatcher) =
    some { active := .bypass, selPhase := .p1, selPrev := .bypass, selNew := .lowpass } := by decide
theorem test_select_pending_is_ignored :
    afterCommand (.select 4) (switchState .p1 .lowpass) (fun t => t.dispatcher.selNew) = some .lowpass := by decide
theorem test_mute_starts_a_ramp : afterCommand (.mute true) State.reset (fun t => t.mute) =
    some { state := .rampToMute, count := 512 } := by decide
theorem test_mute_in_a_ramp_is_ignored :
    afterCommand (.mute false) (muteStateOf { state := .rampToMute, count := 509 }) (fun t => t.mute.count) =
    some 509 := by decide
theorem test_getlevel_reads_and_clears :
    afterCommand (.getlevel 2) { State.reset with peak := ⟨1, 2, 999, 4⟩ } (fun t => (t.result, t.peak)) =
    some (999, ⟨1, 2, 0, 4⟩) := by decide
theorem test_getload : afterCommand .getload { State.reset with lm := { State.reset.lm with load := 25 } }
    (fun t => t.result) = some 25 := by decide
theorem test_rdstat_filter_register : afterCommand (.rdstat 0x34)
    { State.reset with fi1 := { Filter.cleared with b0 := -4194304 } } (fun t => t.result) = some 0xFFC00000 := by decide
theorem test_rdstat_reset_values :
    ([0x03, 0x29, 0x2A, 0x19, 0xFF].map fun r => afterCommand (.rdstat r) State.reset (fun t => t.result)) =
    [some 512, some 4, some 0, some 0, some 0] := by decide
theorem test_stop_shows_in_flags : afterCommand (.rdstat 0x11) stoppedState (fun t => t.result) = some 1 := by decide
theorem test_stop : afterCommand .stop State.reset (fun t => t.stopFlag) = some true := by decide
theorem test_nop_and_reserved : ([Instr.nop, .reservedB, .reservedC, .reservedD, .reservedE, .reservedF].map fun i =>
    afterCommand i { State.reset with result := 7 } (fun t => t.result)) = List.replicate 6 (some 7) := by decide

/-! ## Events -/

theorem test_blockStart : afterEvent (.blockStart 2 [100, -200, 300, -400] 1000) State.reset
    (fun t => (t.lm.tsEntry, t.lm.count, t.peak.c0, t.peak.c1, t.audio.wet)) =
    some (1000, 1, 300, 400, [100, -200, 300, -400]) := by decide
theorem test_blockStart_of_an_odd_block_is_refused :
    afterEvent (.blockStart 1 [1, 2, 3] 9) State.reset (fun t => t.audio.phase) = some .idle := by decide
theorem test_frame : afterEvent .frame blockState (fun t => (t.audio.buf, t.peak.c2, t.audio.n)) =
    some ([500, 0], 500, 1) := by decide
theorem test_blockEnd_load :
    afterEvent (.blockEnd 8) { doneState with lm := { tsPStart := 4294967290, tsEntry := 4, tsExit := 0, count := 2, load := 0 } }
      (fun t => (t.lm.load, t.audio.phase)) = some (40, .idle) := by decide
theorem test_acqTick : afterEvent (.acqTick (.value 65535)) State.reset
    (fun t => (t.acq.raw.c0, t.acq.state.c0, t.acq.val.c0, t.acq.chan)) = some (65535, 419423, 204, 1) := by decide
theorem test_acqTick_error : afterEvent (.acqTick .error) State.reset (fun t => (t.acq.state.c0, t.acq.chan)) =
    some (0, 1) := by decide
theorem test_selStep_reports_a_failed_init :
    (nextOf (performWith { Config.defaults with vcaInitOk := false } .selStep (switchState .p3 .vca))).map
      (fun t => (t.fatalFlag, t.dispatcher.selPhase, t.dispatcher.active)) = some (true, .idle, .bypass) := by decide
theorem test_reset : afterEvent .reset stoppedState (fun t => (t.stopFlag, t.mute.count)) = some (false, 512) := by decide

/-! ## Assembler and byte image -/

theorem test_assemble : assembleLine "FSETP  0, LP, 4000, 0 ; P1".toList = some [.issue 0x10FA0000] := by decide
theorem test_assemble_refuses_out_of_range : assembleLine "FPROC 0, 40000".toList = none := by decide
theorem test_bytes : bytesOfBlock [0x1234, -2] = [0x34, 0x12, 0xFE, 0xFF] := by decide

/-! ## Witnesses: the hypotheses of every statement can be met, each clause at a boundary -/

theorem witness_StepRunsTheDecodedCommand :
    (State.reset.withFetchWord 32 0).pending = .command 0 :: [] := by decide
theorem witness_StepTakesThePendingOrAFreelyChosenEvent :
    (State.reset.withFetchWord 32 0).pending = .command 0 :: [] ∧ State.reset.pending = [] := by decide
theorem witness_EveryInterleavingIsARunOfStep :
    IsRun Config.params (fun _ => [.command 0]) fairEvents fairStates := (fairRun _).toIsRun
theorem witness_PendingSwitchCompletesUnderWeakFairness :
    FairRun Config.defaults (fun _ => [.command 0]) fairEvents fairStates ∧
    (fairStates 0).dispatcher.selPhase = .p4 := ⟨fairRun _, rfl⟩
theorem witness_StartedBlockCompletesUnderWeakFairness :
    FairRun Config.defaults (fun _ => [.command 0]) fairEvents fairStates ∧ (fairStates 0).Inv ∧
    (fairStates 0).audio.phase = .inBlock := ⟨fairRun _, by decide, rfl⟩
theorem witness_MultFloorsTheProductAndWraps :
    -2147483648 ≤ floorShift ((-2147483648 : Word).toInt * (8388608 : Word).toInt) 23 ∧
    floorShift ((-2147483648 : Word).toInt * (8388608 : Word).toInt) 23 < 2147483648 := by decide
theorem witness_FsetpStoresExactCoefficients : (0 : BitVec 3).toNat ≤ 4 ∧ (4 : BitVec 3).toNat ≤ 4 := by decide
theorem witness_FsetpOverridesTheModeNearNyquist :
    3687 ≤ (3687 : Value12).toNat ∧ (1 : BitVec 3).toNat ≤ 1 ∧ 2 ≤ (2 : BitVec 3).toNat ∧ (2 : BitVec 3).toNat ≤ 4 ∧
    (3686 : Value12).toNat < 3687 := by decide
theorem witness_FsetpWithAReservedModeIsIgnored : 5 ≤ (5 : BitVec 3).toNat := by decide
theorem witness_FprocInBypassAndDisabled :
    ({ filterState with fi0 := { lowpass1024 with mode := .bypass } } : State).fi0.mode = .bypass ∧
    (State.reset.fi .left).mode = .disabled := by decide
theorem witness_FprocRunsTheLadder : Filtering (filterState.fi .left).mode ∧
    Filtering .highpass ∧ Filtering .bandpass := by
  unfold Filtering
  decide
theorem witness_ClosedLowpassAnswersZeroForEver :
    ({ State.reset with pending := [.command (encode (.finit .left)), .command (encode (.fsetp .left 0 0 0)),
        .command (encode (.fproc .left 1000)), .command (encode (.fproc .left (-32768)))] } : State).pending =
      .command (encode (.finit .left)) :: .command (encode (.fsetp .left 0 0 0)) ::
        (([1000].map fun y => Event.command (encode (.fproc .left y))) ++
          .command (encode (.fproc .left (-32768))) :: []) := by decide
theorem witness_FdupCopiesTheSettingsOnly : (Chan.left = .left) := by decide
theorem witness_SelectIsAcceptedOrIgnored :
    (5 : BitVec 3).toNat ≤ 5 ∧ State.reset.dispatcher.selPhase = .idle ∧ 6 ≤ (6 : BitVec 3).toNat ∧
    (switchState .p1 .lowpass).dispatcher.selPhase ≠ .idle := by decide
theorem witness_SelStepPerformsTheMicroStepOfThePhase :
    (switchState .p1 .vca).dispatcher.selPhase = .p1 ∧ (switchState .p2 .vca).dispatcher.selPhase = .p2 ∧
    (switchState .p3 .bypass).dispatcher.selPhase = .p3 ∧ (switchState .p3 .bypass).dispatcher.selNew = .bypass ∧
    3 ≤ (switchState .p3 .lowpass).dispatcher.selNew.code ∧ (switchState .p3 .vca).dispatcher.selNew = .vca ∧
    (switchState .p3 .cleanDelay).dispatcher.selNew = .cleanDelay ∧
    (switchState .p4 .vca).dispatcher.selPhase = .p4 := by decide
theorem witness_PendingSwitchShowsOldBypassOrNew :
    (switchState .p4 .lowpass).Inv ∧ (switchState .p4 .lowpass).dispatcher.selPhase ≠ .idle ∧
    Event.selStep ≠ .reset ∧
    perform .selStep (switchState .p4 .lowpass) = .next (selStep4 (switchState .p4 .lowpass)) :=
  ⟨by decide, by decide, by decide, rfl⟩
theorem witness_SelectAndFourMicroStepsCompleteTheSwitch :
    (5 : BitVec 3).toNat ≤ 5 ∧ State.reset.dispatcher.selPhase = .idle ∧
    ({ State.reset with pending := [.command (encode (.select 5)), .selStep, .selStep, .selStep, .selStep] } : State).pending =
      .command (encode (.select 5)) :: .selStep :: .selStep :: .selStep :: .selStep :: [] := by decide
theorem witness_MuteStartsARampOnlyFromRest :
    State.reset.mute.state = .passThrough ∧ (muteStateOf { state := .muted, count := 0 }).mute.state = .muted ∧
    ¬(true = true ∧ (muteStateOf { state := .muted, count := 0 }).mute.state = .passThrough) := by decide
theorem witness_MuteApplyFloorsTheScaledSample : 512 ≤ 512 := by decide
theorem witness_MuteGainNumeratorByState :
    Mute.Inv { state := .passThrough, count := 512 } ∧ Mute.Inv { state := .rampToMute, count := 1 } ∧
    Mute.Inv { state := .muted, count := 0 } ∧ Mute.Inv { state := .rampToUnmute, count := 511 } := by decide
theorem witness_MuteRampTakesExactly512Frames :
    (∀ e ∈ [Event.frame], LeavesMuteAlone e) ∧
    runCountingFrames [.frame] { blockState with mute := { state := .rampToMute, count := 512 } } 0 ≠ none ∧
    runCountingFrames [.frame] { blockState with mute := { state := .rampToUnmute, count := 0 } } 0 ≠ none := by
  refine ⟨?_, by decide, by decide⟩
  intro e he
  obtain rfl : e = .frame := by simpa using he
  exact ⟨by decide, fun w on h => nomatch h⟩
theorem witness_MuteRampTakesExactly512Frames_whole :
    (∀ e ∈ List.replicate 512 Event.frame, LeavesMuteAlone e) ∧
    (∃ t, runCountingFrames (List.replicate 512 .frame) (longBlock { state := .rampToMute, count := 512 }) 0 =
      some (t, 512)) ∧
    ∃ t, runCountingFrames (List.replicate 512 .frame) (longBlock { state := .rampToUnmute, count := 0 }) 0 =
      some (t, 512) := by
  refine ⟨fun e he => ?_, ?_, ?_⟩
  · rw [List.eq_of_mem_replicate he]
    exact ⟨by decide, fun w on h => nomatch h⟩
  · exact frames_counted 512 (longBlock _) 0 rfl (Nat.le_refl _) (List.length_replicate ..) (List.length_replicate ..)
  · exact frames_counted 512 (longBlock _) 0 rfl (Nat.le_refl _) (List.length_replicate ..) (List.length_replicate ..)
theorem witness_WetGainInterpolatesBetweenTheMixValues : 0 < 1 ∧ 3 < 4 := by decide
theorem witness_MixFloorsAndNeverSaturates : (0 : Int) ≤ 4095 ∧ (4095 : Int) ≤ 4095 := by decide
theorem witness_FrameMixesMutesAndMetersBothLanes :
    blockState.Inv ∧ blockState.audio.phase = .inBlock ∧ blockState.audio.n < blockState.audio.frames ∧
    blockState.audio.wet[1]? = some 0 ∧ blockState.audio.buf[1]? = some 0 :=
  ⟨by decide, by decide, by decide, rfl, rfl⟩
theorem witness_MuteAdvanceCountsAndEndsTheRamp :
    Mute.Inv { state := .rampToMute, count := 1 } ∧ Mute.Inv { state := .rampToUnmute, count := 511 } ∧
    Mute.Inv { state := .muted, count := 0 } := by decide
theorem witness_BlockStartTakesAnAdmittedBlock :
    State.reset.audio.phase = .idle ∧ State.reset.stopFlag = false ∧ 256 ≤ (Config.defaults.maxFrames : Nat) ∧
    0 ≤ (Config.defaults.maxFrames : Nat) ∧ ([] : List Sample).length = 2 * 0 ∧
    1 ≤ (Config.defaults.maxFrames : Nat) ∧ ([5, -32768] : List Sample).length = 2 * 1 := by decide
theorem witness_BypassEffectCopiesTheBlock :
    State.reset.audio.phase = .idle ∧ State.reset.stopFlag = false ∧ 1 ≤ (Config.defaults.maxFrames : Nat) ∧
    ([5, -32768] : List Sample).length = 2 * 1 ∧ State.reset.dispatcher.active = .bypass := by decide
theorem witness_OpaqueEffectsWriteOnlyTheirOwnState :
    (effectState .vca).audio.phase = .idle ∧ (effectState .vca).stopFlag = false ∧
    1 ≤ (Config.defaults.maxFrames : Nat) ∧ ([5, 6] : List Sample).length = 2 * 1 ∧
    (effectState .vca).dispatcher.active = .vca ∧ (effectState .cleanDelay).dispatcher.active = .cleanDelay := by
  decide
theorem witness_FilterEffectRunsEachLaneThroughItsInstance :
    (effectState .lowpass).audio.phase = .idle ∧ (effectState .lowpass).stopFlag = false ∧
    1 ≤ (Config.defaults.maxFrames : Nat) ∧ ([5, 6] : List Sample).length = 2 * 1 ∧
    (effectState .lowpass).dispatcher.active = .lowpass ∧ (effectState .highpass).dispatcher.active = .highpass ∧
    (effectState .bandpass).dispatcher.active = .bandpass := by decide
theorem witness_BlockEndDeliversTheBlockAndComputesTheLoad :
    doneState.audio.phase = .inBlock ∧ doneState.audio.n = doneState.audio.frames ∧
    ({ doneState with lm := { tsPStart := 0, tsEntry := 1, tsExit := 0, count := 2, load := 0 } } : State).lm.count.val = 2 ∧
    (((1 : Word).toNat : Int) - (0 : Word).toNat) % 2 ^ 32 ≠ 0 := by decide
theorem witness_StartedBlockRunsToItsEnd :
    blockState.Inv ∧ blockState.audio.phase = .inBlock ∧
    ({ blockState with pending := [.frame, .blockEnd 7] } : State).pending =
      List.replicate (blockState.audio.frames - blockState.audio.n) .frame ++ .blockEnd 7 :: [] := by decide
theorem witness_LanesNeverMix :
    SameLane .left State.reset { State.reset with fi1 := lowpass1024 } ∧
    SameLaneEvent .left (.blockStart 1 [5, 6] 0) (.blockStart 1 [5, 7] 0) ∧
    State.reset.dispatcher.active ≠ .vca ∧ State.reset.dispatcher.active ≠ .cleanDelay ∧
    nextOf (performWith Config.defaults (.blockStart 1 [5, 6] 0) State.reset) ≠ none ∧
    nextOf (performWith Config.defaults (.blockStart 1 [5, 7] 0) { State.reset with fi1 := lowpass1024 }) ≠ none := by
  refine ⟨⟨rfl, rfl, rfl, rfl, rfl, rfl, rfl, rfl, rfl, rfl, fun _ => rfl, fun _ => rfl, rfl, rfl⟩, ?_, by decide,
    by decide, by decide, by decide⟩
  refine .inr (.inr ⟨1, [5, 6], [5, 7], 0, rfl, rfl, rfl, fun k => ?_⟩)
  match k with
  | 0 => rfl
  | k + 1 => simp [laneNumber, Nat.mul_add]
theorem witness_AcqTickSmoothsOneChannel : State.reset.stopFlag = false ∧ (1 : Fin 4) ≠ State.reset.acq.chan := by decide
theorem witness_ErrorReadingKeepsTheStaleValues : State.reset.stopFlag = false := by decide
theorem witness_SmoothingSettlesAtTheTargetFromAbove :
    (0 : Word).toInt ≤ (20 : Word).toInt ∧ (20 : Word).toInt - (0 : Word).toInt ≤ 20 ∧
    21 ≤ (21 : Word).toInt - (0 : Word).toInt ∧ (21 : Word).toInt - (0 : Word).toInt < 2 ^ 31 ∧
    (0 : Word).toInt < (1 : Word).toInt ∧ (1 : Word).toInt - (0 : Word).toInt ≤ 2 ^ 31 := by decide
theorem witness_GetlevelReadsAndClearsOneMeter : (3 : Fin 4).val = (3 : BitVec 2).toNat := by decide
theorem witness_RdstatAnswersTheStatusMap :
    ((0x39 : BitVec 8).toNat, (4 : Word)) ∈ statusTable State.reset ∧
    (∀ v : Word, ((0x3A : BitVec 8).toNat, v) ∉ statusTable State.reset) := by
  refine ⟨by decide, fun v => ?_⟩
  simp [statusTable]
theorem witness_StopHoldsUntilReset :
    stoppedState.stopFlag = true ∧ Event.frame ≠ .reset ∧ perform .frame stoppedState = .next stoppedState ∧
    stoppedState.audio.phase = .idle :=
  ⟨by decide, by decide, rfl, by decide⟩
theorem witness_NopAndReservedOpcodesChangeNothing :
    (0x0FFFFFFF : Word).toNat < 2 ^ 28 ∧ 11 * 2 ^ 28 ≤ (0xB0000000 : Word).toNat := by decide
theorem witness_ResetSetsEveryStateElement :
    1 ≤ (Config.defaults.maxFrames : Nat) ∧ ([5, 6] : List Sample).length = 2 * 1 := by decide
theorem witness_StepThatIsNotEnabledChangesNothing :
    blockState.audio.phase = .inBlock ∧ stoppedState.stopFlag = true ∧ (Config.defaults.maxFrames : Nat) < 257 ∧
    ([1] : List Sample).length ≠ 2 * 1 ∧ State.reset.audio.phase = .idle ∧
    doneState.audio.frames ≤ doneState.audio.n ∧ blockState.audio.n ≠ blockState.audio.frames ∧
    State.reset.dispatcher.selPhase = .idle := by decide
theorem test_blockStart_during_a_block_is_refused :
    afterEvent (.blockStart 1 [5, 6] 9) blockState (fun t => (t.audio.buf, t.lm.tsEntry)) = some ([0, 0], 0) := by
  decide
theorem witness_NoStepOfAnyAgentStops : State.reset.Inv ∧ blockState.Inv := ⟨by decide, by decide⟩
theorem witness_EveryStepKeepsTheInvariant :
    (State.reset.withFetchWord 32 0x60000001).Inv ∧ nextOf (step (State.reset.withFetchWord 32 0x60000001)) ≠ none := by
  decide
theorem witness_EveryStepKeepsBlocksWithinMaxFrames :
    (State.reset.withFetchWord 32 0).BlockFits ∧
    step (State.reset.withFetchWord 32 0) = .next State.reset :=
  ⟨Nat.zero_le _, rfl⟩
theorem witness_OnlyReturningCommandsWriteResult :
    nextOf (perform (.command (encode (.rdstat 0x03))) State.reset) ≠ none ∧
    (nextOf (perform (.command (encode (.rdstat 0x03))) State.reset)).map (fun t => t.result) ≠
      some State.reset.result := by decide
theorem witness_EveryStateElementHasItsWriters :
    perform .selStep (switchState .p4 .lowpass) = .next (selStep4 (switchState .p4 .lowpass)) ∧
    Event.selStep ≠ .reset ∧
    (selStep4 (switchState .p4 .lowpass)).dispatcher.active ≠ (switchState .p4 .lowpass).dispatcher.active :=
  ⟨rfl, by decide, by decide⟩
theorem witness_FatalFlagIsStickyAndSetByAFailedInitAlone :
    performWith { Config.defaults with vcaInitOk := false } .selStep (switchState .p3 .vca) =
      .next (switchState .p3 .vca).reportInitFailure ∧ Event.selStep ≠ .reset ∧
    (switchState .p3 .vca).fatalFlag = false ∧ (switchState .p3 .vca).reportInitFailure.fatalFlag = true :=
  ⟨rfl, by decide, by decide, by decide⟩
theorem witness_MetersOnlyRiseUntilReadAndCleared :
    nextOf (perform .frame blockState) ≠ none ∧ Event.frame ≠ .reset ∧
    (∀ w idx, Event.frame = .command w → decode w = .getlevel idx → idx.toNat ≠ (2 : Fin 4).val) :=
  ⟨by decide, by decide, fun _ _ h => nomatch h⟩
theorem witness_ByteImageIsLittleEndianAndReadsBack :
    ([0x1234, -2] : List Sample)[(1 : Nat)]? = some (-2 : Sample) ∧ ([1, 2, 3] : List (BitVec 8)).length ≠ 4 * 1 ∧
    ([1, 2, 3, 4] : List (BitVec 8)).length = 4 * 1 := by decide

end Sys2Proof.Tests
end

section
/-!
PROOFS. The audio frame processor: the wet gain (R68), the FRAME step (R70) and the cutoff shaping (R66).
-/

namespace Sys2Proof.Machine

/-! ## The cutoff shaping -/

/-- The cube of a control value is below 2^36, so narrowing its floored quotient to 12 bits loses nothing (R66). -/
theorem shape_toNat (c : Value12) : (shape c).toNat = c.toNat ^ 3 / 2 ^ 24 := by
  have hc : c.toNat ^ 3 < (2 ^ 12) ^ 3 := Nat.pow_lt_pow_left c.isLt (by decide)
  have hcube : c.toNat * c.toNat * c.toNat = c.toNat ^ 3 := by ring
  rw [shape, BitVec.toNat_ofNat, Nat.shiftRight_eq_div_pow, hcube]
  exact Nat.mod_eq_of_lt (by omega)

/-- A larger control value is never shaped to a smaller cutoff (R66). -/
theorem shape_toNat_mono {c d : Value12} (h : c.toNat ≤ d.toNat) : (shape c).toNat ≤ (shape d).toNat := by
  rw [shape_toNat, shape_toNat]
  exact Nat.div_le_div_right (Nat.pow_le_pow_left h 3)

/-! ## The wet gain -/

/-- The n-th of F equal parts of a distance, truncated toward zero, lies between zero and the distance. -/
theorem truncdiv_mul_mem (d : Int) {n frames : Nat} (h : n < frames) :
    min 0 d ≤ truncdiv (n * d) frames ∧ truncdiv (n * d) frames ≤ max 0 d := by
  have part_le (e : Nat) : ((n * e / frames : Nat) : Int) ≤ e := by
    exact_mod_cast Nat.div_le_of_le_mul (Nat.mul_le_mul_right e h.le)
  obtain ⟨e, rfl | rfl⟩ := d.eq_nat_or_neg
  · have hq : truncdiv (n * (e : Int)) frames = (n * e / frames : Nat) := by
      rw [truncdiv, ← Int.natCast_mul, ← Int.ofNat_tdiv]
    rw [hq, min_eq_left (Int.natCast_nonneg e), max_eq_right (Int.natCast_nonneg e)]
    exact ⟨Int.natCast_nonneg _, part_le e⟩
  · have hq : truncdiv (n * (-e : Int)) frames = -(n * e / frames : Nat) := by
      rw [truncdiv, Int.mul_neg, Int.neg_tdiv, ← Int.natCast_mul, ← Int.ofNat_tdiv]
    have he : -(e : Int) ≤ 0 := Int.neg_nonpos_of_nonneg (Int.natCast_nonneg e)
    rw [hq, min_eq_right he, max_eq_left he]
    exact ⟨Int.neg_le_neg (part_le e), Int.neg_nonpos_of_nonneg (Int.natCast_nonneg _)⟩

/-- The wet gain starts at the old mix value (R68). -/
@[simp] theorem wetGain_zero (a b : Value12) (frames : Nat) : wetGain a b 0 frames = a.toNat := by
  simp [wetGain, truncdiv]

/-- Between equal mix values the wet gain is constant (R68). -/
@[simp] theorem wetGain_self (a : Value12) (n frames : Nat) : wetGain a a n frames = a.toNat := by
  simp [wetGain, truncdiv]

/-- The wet gain lies between the two mix values (R68). -/
theorem wetGain_mem (a b : Value12) {n frames : Nat} (h : n < frames) :
    min (a.toNat : Int) b.toNat ≤ wetGain a b n frames ∧ wetGain a b n frames ≤ max (a.toNat : Int) b.toNat := by
  have := truncdiv_mul_mem ((b.toNat : Int) - a.toNat) h
  unfold wetGain
  omega

/-! ## One lane of FRAME -/

theorem laneOffset_eq_laneNumber (ch : Chan) : laneOffset ch = Reference.laneNumber ch := by cases ch <;> rfl

section Lane

variable {w : Int} {g : Nat} {ch : Chan} {s t : State}

/-- A lane writes Buf and the meters only. -/
theorem frameLane_frame (h : frameLane w g ch s = .next t) :
    t = { s with audio := { s.audio with buf := t.audio.buf }, peak := t.peak } := by
  obtain ⟨_, _, -, -, rfl⟩ := frameLane_next h
  rfl

/-- A lane leaves every element of Buf but its own. -/
theorem frameLane_buf_of_ne (h : frameLane w g ch s = .next t) {i : Nat} (hi : i ≠ 2 * s.audio.n + laneOffset ch) :
    t.audio.buf[i]? = s.audio.buf[i]? := by
  obtain ⟨_, _, -, -, rfl⟩ := frameLane_next h
  simp [List.getElem?_set_ne hi.symm]

/-- A lane leaves every meter but its output meter. -/
theorem frameLane_peak_of_ne (h : frameLane w g ch s = .next t) {m : Fin 4} (hm : m ≠ outMeter ch) :
    t.peak.get m = s.peak.get m := by
  obtain ⟨_, _, -, -, rfl⟩ := frameLane_next h
  simp [Quad.get_set_of_ne _ _ _ _ hm]

/-- A lane writes the muted mix of its two Samples and raises its output meter by it. -/
theorem frameLane_writes (h : frameLane w g ch s = .next t) {wet dry : Sample}
    (hw : s.audio.wet[2 * s.audio.n + laneOffset ch]? = some wet)
    (hd : s.audio.buf[2 * s.audio.n + laneOffset ch]? = some dry) :
    t.audio.buf[2 * s.audio.n + laneOffset ch]? = some (muteApply (mix w wet dry) g) ∧
    t.peak.get (outMeter ch) = raisePeak (s.peak.get (outMeter ch)) (muteApply (mix w wet dry) g) := by
  obtain ⟨dry', wet', hd', hw', rfl⟩ := frameLane_next h
  obtain rfl : dry' = dry := Option.some.inj (hd'.symm.trans hd)
  obtain rfl : wet' = wet := Option.some.inj (hw'.symm.trans hw)
  have hlt : 2 * s.audio.n + laneOffset ch < s.audio.buf.length := (List.getElem?_eq_some_iff.mp hd).1
  simp [List.getElem?_set_self hlt]

end Lane

/-! ## Both lanes of FRAME -/

section BothLanes

variable {s t : State}

/-- A FRAME that completes leaves the elements of Buf of all other frames, and the input meters. -/
theorem frame_leaves_others (h : frame s = .next t) :
    (∀ i : Nat, i ≠ 2 * s.audio.n → i ≠ 2 * s.audio.n + 1 → t.audio.buf[i]? = s.audio.buf[i]?) ∧
    ∀ ch : Chan, t.peak.get (inMeter ch) = s.peak.get (inMeter ch) := by
  obtain ⟨-, rfl⟩ | ⟨-, -, s1, s2, hl, hr, rfl⟩ := frame_cases h
  · exact ⟨fun _ _ _ => rfl, fun _ => rfl⟩
  · have hn : s1.audio.n = s.audio.n := by rw [frameLane_frame hl]
    refine ⟨fun i hi₀ hi₁ => ?_, fun ch => ?_⟩
    · exact (frameLane_buf_of_ne hr (by rwa [hn])).trans (frameLane_buf_of_ne hl hi₀)
    · exact (frameLane_peak_of_ne hr (by cases ch <;> decide)).trans
        (frameLane_peak_of_ne hl (by cases ch <;> decide))

/-- An enabled FRAME that completes advances the mute machine once (R70, R103). -/
theorem frame_mute (he : frameEnabled s = true) (h : frame s = .next t) : t.mute = s.mute.advance := by
  obtain ⟨hoff, -⟩ | ⟨-, -, s1, s2, hl, hr, rfl⟩ := frame_cases h
  · simp [he] at hoff
  · have hm : s2.mute = s.mute := by rw [frameLane_frame hr, frameLane_frame hl]
    rw [State.endFrame, hm]

/-- An enabled FRAME that completes writes, for each lane, the muted mix of that lane's two Samples as they were
before the step, and raises its output meter by it: neither lane reads what the other wrote (R70). -/
theorem frame_writes (he : frameEnabled s = true) (h : frame s = .next t) {ch : Chan} {wet dry : Sample}
    (hw : s.audio.wet[2 * s.audio.n + laneOffset ch]? = some wet)
    (hd : s.audio.buf[2 * s.audio.n + laneOffset ch]? = some dry) {o : Sample}
    (ho : o = muteApply (mix (wetGain s.audio.prevWet s.audio.currWet s.audio.n s.audio.frames) wet dry)
      s.mute.gainNum) :
    t.audio.buf[2 * s.audio.n + laneOffset ch]? = some o ∧
    t.peak.get (outMeter ch) = raisePeak (s.peak.get (outMeter ch)) o := by
  subst ho
  obtain ⟨hoff, -⟩ | ⟨-, -, s1, s2, hl, hr, rfl⟩ := frame_cases h
  · simp [he] at hoff
  have hn : s1.audio.n = s.audio.n := by rw [frameLane_frame hl]
  have hwet : s1.audio.wet = s.audio.wet := by rw [frameLane_frame hl]
  cases ch with
  | left =>
    obtain ⟨hbuf, hpeak⟩ := frameLane_writes hl hw hd
    exact ⟨(frameLane_buf_of_ne hr (by simp [hn, laneOffset])).trans hbuf,
      (frameLane_peak_of_ne hr (by decide)).trans hpeak⟩
  | right =>
    have hd₁ := (frameLane_buf_of_ne hl (i := 2 * s.audio.n + laneOffset .right) (by simp [laneOffset])).trans hd
    rw [← hwet, ← hn] at hw
    rw [← hn] at hd₁
    obtain ⟨hbuf, hpeak⟩ := frameLane_writes hr hw hd₁
    rw [hn] at hbuf
    rw [frameLane_peak_of_ne hl (by decide)] at hpeak
    exact ⟨hbuf, hpeak⟩

end BothLanes

end Sys2Proof.Machine

namespace Sys2Proof.Proofs

open Sys2Proof Sys2Proof.Machine Sys2Proof.Reference

/-- Settles O26: the interpolated part lies between zero and the difference of the two mix values. -/
theorem wetGainInterpolatesBetweenTheMixValues : Obligations.WetGainInterpolatesBetweenTheMixValues := by
  unfold Obligations.WetGainInterpolatesBetweenTheMixValues
  intro a b n frames hn
  obtain ⟨hmin, hmax⟩ := wetGain_mem a b hn
  have ha := a.isLt
  have hb := b.isLt
  refine ⟨rfl, wetGain_zero a b frames, hmin, hmax, by omega, by omega, by omega, by omega, ?_⟩
  rintro rfl
  exact wetGain_self a n frames

/-- Settles O28: each lane is written from the Samples before the step, and nothing else is. -/
theorem frameMixesMutesAndMetersBothLanes : Obligations.FrameMixesMutesAndMetersBothLanes := by
  unfold Obligations.FrameMixesMutesAndMetersBothLanes
  intro s hinv hphase hn
  obtain ⟨-, -, -, -, ⟨-, hbuf, hwet, -⟩, -⟩ := hinv
  have he : frameEnabled s = true := by simp [frameEnabled, hphase, hn]
  obtain ⟨t, ht, haudio, -⟩ := frame_completes hphase hn hbuf hwet
  obtain ⟨hothers, hinputs⟩ := frame_leaves_others ht
  refine ⟨t, ht, fun ch wet dry hw hd => ?_, hothers, frame_mute he ht, ?_⟩
  · rw [← laneOffset_eq_laneNumber] at hw hd ⊢
    obtain ⟨hout, hpeak⟩ := frame_writes he ht hw hd rfl
    exact ⟨_, rfl, hout, by rw [hpeak, raisePeak_toNat, sampleAbs], hinputs ch⟩
  · have hnext : t.audio.n = s.audio.n + 1 := by rw [haudio]
    rw [← hnext]
    exact frame_frame ht

/-- Settles O34: the bounds follow from the cube's monotonicity and its values at 255, 3954, 3955 and 4095. -/
theorem cutoffShapingIsTheFlooredCube : Obligations.CutoffShapingIsTheFlooredCube := by
  unfold Obligations.CutoffShapingIsTheFlooredCube
  intro c
  refine ⟨shape_toNat c, ?_, fun h => ?_, fun h => ?_, fun h => ?_⟩
  · exact shape_toNat_mono (d := 4095) (Nat.le_of_lt_succ c.isLt)
  · exact BitVec.eq_of_toNat_eq (Nat.le_zero.mp (shape_toNat_mono (d := 255) h))
  · by_contra hlt
    have hle : (shape c).toNat ≤ (shape 3954).toNat := shape_toNat_mono (Nat.le_of_lt_succ (not_le.mp hlt))
    exact absurd (h.trans hle) (by decide)
  · exact shape_toNat_mono (c := 3955) h

end Sys2Proof.Proofs
end

section
/-!
PROOFS. Effect dispatch: the command SELECT (R75) and the dispatcher's micro-steps (R76 to R79).
-/

namespace Sys2Proof.Machine

/-! ## The effect an index names -/

/-- An index names the effect that reads as it (R20). -/
theorem effectOfIndex_eq_some_iff (idx : BitVec 3) (e : Effect) : effectOfIndex idx = some e ↔ e.code = idx.toNat := by
  cases e <;> revert idx <;> decide

/-- The indices 0 to 5 name an effect (R20). -/
theorem effectOfIndex_isSome_iff (idx : BitVec 3) : (effectOfIndex idx).isSome ↔ idx.toNat ≤ 5 := by
  revert idx
  decide

/-! ## SELECT -/

section Select

variable {idx : BitVec 3} {s : State}

/-- A SELECT that names an effect is accepted when no switch is pending (R75). -/
theorem execSelect_accepts {e : Effect} (he : effectOfIndex idx = some e) (hidle : s.dispatcher.selPhase = .idle) :
    execSelect idx s = .next { s with dispatcher :=
      { s.dispatcher with selPrev := s.dispatcher.active, selNew := e, selPhase := .p1 } } := by
  simp only [execSelect, he, hidle]

/-- A SELECT whose index is out of range, or that meets a pending switch, is ignored (R75). -/
theorem execSelect_ignores (h : 6 ≤ idx.toNat ∨ s.dispatcher.selPhase ≠ .idle) : execSelect idx s = .next s := by
  obtain hsame | ⟨hidle, e, he, -⟩ := execSelect_cases idx s
  · exact hsame
  · have hle : idx.toNat ≤ 5 := (effectOfIndex_isSome_iff idx).mp (by simp [he])
    obtain hout | hpending := h
    · omega
    · exact absurd hidle hpending

end Select

/-! ## SEL_STEP, phase by phase -/

section SelStep

variable {p : Params} {s : State}

theorem selStep_of_p1 (h : s.dispatcher.selPhase = .p1) : selStep p s = .next (selStep1 s) := by
  simp only [selStep, h]

theorem selStep_of_p2 (h : s.dispatcher.selPhase = .p2) : selStep p s = .next (s.setSelPhase .p3) := by
  simp only [selStep, h, selStep2, State.cleanup]

theorem selStep_of_p3 (h : s.dispatcher.selPhase = .p3) : selStep p s = .next (selStep3 p s) := by
  simp only [selStep, h]

theorem selStep_of_p4 (h : s.dispatcher.selPhase = .p4) : selStep p s = .next (selStep4 s) := by
  simp only [selStep, h]

/-! ## Micro-step 3, effect by effect -/

theorem selStep3_of_bypass (h : s.dispatcher.selNew = .bypass) : selStep3 p s = s.setSelPhase .p4 := by
  simp only [selStep3, h]

/-- The three filter effects, indices 3 to 5, share one init routine (R78). -/
theorem selStep3_of_filter (h : 3 ≤ s.dispatcher.selNew.code) : selStep3 p s = s.initFilters.setSelPhase .p4 := by
  cases hnew : s.dispatcher.selNew with
  | bypass | vca | cleanDelay => rw [hnew] at h; exact absurd h (by decide)
  | lowpass | highpass | bandpass => simp only [selStep3, hnew]

theorem selStep3_of_vca (h : s.dispatcher.selNew = .vca) :
    selStep3 p s = if p.vcaInitOk then ({ s with vcaState := Config.vcaInit } : State).setSelPhase .p4
      else s.reportInitFailure := by
  simp only [selStep3, h]

theorem selStep3_of_cleanDelay (h : s.dispatcher.selNew = .cleanDelay) :
    selStep3 p s = if p.delayInitOk then ({ s with delayState := Config.delayInit } : State).setSelPhase .p4
      else s.reportInitFailure := by
  simp only [selStep3, h]

end SelStep

end Sys2Proof.Machine

namespace Sys2Proof.Proofs

open Sys2Proof Sys2Proof.Machine Sys2Proof.Reference

/-- Settles O17: an index up to 5 names the effect that reads as it, and no other index names one. -/
theorem selectIsAcceptedOrIgnored : Obligations.SelectIsAcceptedOrIgnored := by
  unfold Obligations.SelectIsAcceptedOrIgnored
  refine fun idx s => ⟨fun hle hidle => ?_, execSelect_ignores⟩
  obtain ⟨e, he⟩ := Option.isSome_iff_exists.mp ((effectOfIndex_isSome_iff idx).mpr hle)
  have hcode : e.code = idx.toNat := (effectOfIndex_eq_some_iff idx e).mp he
  exact ⟨_, execSelect_accepts he hidle, rfl, rfl, hcode, rfl, rfl⟩

/-- Settles O18: phase by phase, and in P3 effect by effect. -/
theorem selStepPerformsTheMicroStepOfThePhase : Obligations.SelStepPerformsTheMicroStepOfThePhase := by
  unfold Obligations.SelStepPerformsTheMicroStepOfThePhase
  refine fun p s => ⟨selStep_of_p1, selStep_of_p2, fun h3 => ?_, selStep_of_p4⟩
  have hstep : performWith p .selStep s = .next (selStep3 p s) := selStep_of_p3 h3
  rw [hstep]
  refine ⟨fun hnew => ?_, fun hnew => ?_, fun hnew => ?_, fun hnew => ?_⟩
  · rw [selStep3_of_bypass hnew]; rfl
  · rw [selStep3_of_filter hnew]; rfl
  · rw [selStep3_of_vca hnew]; rfl
  · rw [selStep3_of_cleanDelay hnew]; rfl

end Sys2Proof.Proofs
end

section
/-!
PROOFS. The ladder filter: the multiply (R83), word arithmetic and conversions on integers (R84, R87, R88), the four
stages and the taps (R94, R95), and the commands FPROC, FDUP and FINIT (R92, R93, R96, R97).
-/

namespace Sys2Proof.Machine

open Sys2Proof.Reference

/-! ## Word arithmetic on integers -/

/-- The spec's wrap is the balanced remainder modulo 2^32 (R10). -/
theorem bmod_eq_wrap (v : Int) : v.bmod (2 ^ 32) = wrap v := by
  rw [wrap, Int.bmod_def]
  omega

theorem wrap_of_mem {v : Int} (h₁ : -2147483648 ≤ v) (h₂ : v < 2147483648) : wrap v = v := by
  unfold wrap
  omega

/-- The signed value of a word needs no wrap. -/
theorem wrap_toInt (x : Word) : wrap x.toInt = x.toInt :=
  wrap_of_mem (BitVec.le_toInt x) BitVec.toInt_lt

theorem toInt_add_eq_wrap (x y : Word) : (x + y).toInt = wrap (x.toInt + y.toInt) := by
  rw [BitVec.toInt_add, bmod_eq_wrap]

theorem toInt_sub_eq_wrap (x y : Word) : (x - y).toInt = wrap (x.toInt - y.toInt) := by
  rw [BitVec.toInt_sub, bmod_eq_wrap]

theorem toInt_neg_eq_wrap (x : Word) : (-x).toInt = wrap (-x.toInt) := by
  rw [BitVec.toInt_neg, bmod_eq_wrap]

/-- The integer multiple of R95's bandpass tap. -/
theorem toInt_three_mul (x : Word) : (3 * x).toInt = wrap (3 * x.toInt) := by
  have h3 : (3 : Word).toInt = 3 := by decide
  rw [BitVec.toInt_mul, h3, bmod_eq_wrap]

/-! ## The multiply -/

/-- The multiply is the spec's formula on the integers the words stand for (R83). -/
theorem toInt_mult (x y : Word) : (mult x y).toInt = mulFixed x.toInt y.toInt := by
  rw [mult, toInt_wrap32, asr_eq_floor, bmod_eq_wrap, mulFixed, floorShift]

/-- A shift undoes a multiplication by the power of two it divides by. -/
theorem floorShift_pow_mul (v : Int) (k : Nat) : floorShift (2 ^ k * v) k = v :=
  Int.mul_ediv_cancel_left v (pow_ne_zero k two_ne_zero)

/-- Multiplying by 1.0 changes nothing (R83). -/
theorem mult_unity (y : Word) : mult UNITY y = y := by
  have hunity : UNITY.toInt = 2 ^ 23 := by decide
  apply BitVec.eq_of_toInt_eq
  rw [toInt_mult, mulFixed, hunity, floorShift_pow_mul, wrap_toInt]

/-- Multiplying by -1.0 is the wrapped negation (R83). -/
theorem mult_neg_unity (y : Word) : mult (-UNITY) y = -y := by
  have hunity : (-UNITY).toInt = -2 ^ 23 := by decide
  apply BitVec.eq_of_toInt_eq
  rw [toInt_mult, mulFixed, hunity, Int.neg_mul_comm, floorShift_pow_mul, toInt_neg_eq_wrap]

theorem mult_zero (x : Word) : mult x 0 = 0 := by
  have hzero : (0 : Word).toInt = 0 := by decide
  apply BitVec.eq_of_toInt_eq
  rw [toInt_mult, mulFixed, hzero, mul_zero]
  decide

/-! ## Conversions -/

/-- A Sample widened to a word keeps its signed value (R10). -/
theorem toInt_signExtend_sample (x : Sample) : (x.signExtend 32).toInt = x.toInt :=
  BitVec.toInt_signExtend_of_le (by decide)

/-- A Sample in S8.23 is 256 times the Sample: the shift never wraps (R87). -/
theorem toInt_sampleToFixed (x : Sample) : (sampleToFixed x).toInt = x.toInt * 256 := by
  have h₁ := BitVec.le_toInt x
  have h₂ := BitVec.toInt_lt (x := x)
  norm_num at h₁ h₂
  have h256 : (BitVec.twoPow 32 8).toInt = 256 := by decide
  rw [sampleToFixed, BitVec.shiftLeft_eq_mul_twoPow, BitVec.toInt_mul, toInt_signExtend_sample, h256, bmod_eq_wrap]
  exact wrap_of_mem (by omega) (by omega)

/-- The output conversion is the spec's formula on integers (R88). -/
theorem toInt_fixedToSample (y : Word) : (fixedToSample y).toInt = outputSample y.toInt := by
  have h128 : (128 : Word).toInt = 128 := by decide
  rw [fixedToSample, toInt_sat16, asr_eq_floor, toInt_add_eq_wrap, h128, outputSample, floorShift, clampTo, clamp]

/-! ## The ladder -/

/-- One stage, register sum included (R94 lines 3 to 6). -/
theorem Filter.toInt_stage (fi : Filter) {prev : Word} {v : Int} (h : prev.toInt = v) (tap old : Word) :
    (fi.stage (prev + tap) old).toInt = stageFixed fi.p.toInt fi.f.toInt (v + tap.toInt) old.toInt := by
  rw [Filter.stage, toInt_sub_eq_wrap, toInt_mult, toInt_mult, toInt_add_eq_wrap, h, stageFixed]

/-- The soft clip (R94 line 7). -/
theorem toInt_softClip (b : Word) : (softClip b).toInt =
    wrap (b.toInt - mulFixed (mulFixed (mulFixed b.toInt b.toInt) b.toInt) 1398101) := by
  have hk16 : K16.toInt = 1398101 := by decide
  rw [softClip, toInt_sub_eq_wrap, toInt_mult, toInt_mult, toInt_mult, hk16]

section Advance

variable (fi : Filter) (x : Sample)

theorem Filter.toInt_advance_b0 : (fi.advance x).b0.toInt = (ladder fi x.toInt).x := by
  rw [Filter.advance, Filter.feedbackInput, toInt_sub_eq_wrap, toInt_sampleToFixed, toInt_mult, ladder]

theorem Filter.toInt_advance_b1 : (fi.advance x).b1.toInt = (ladder fi x.toInt).b1 :=
  fi.toInt_stage (fi.toInt_advance_b0 x) fi.b0 fi.b1

theorem Filter.toInt_advance_b2 : (fi.advance x).b2.toInt = (ladder fi x.toInt).b2 :=
  fi.toInt_stage (fi.toInt_advance_b1 x) fi.b1 fi.b2

theorem Filter.toInt_advance_b3 : (fi.advance x).b3.toInt = (ladder fi x.toInt).b3 :=
  fi.toInt_stage (fi.toInt_advance_b2 x) fi.b2 fi.b3

/-- The fourth stage is clipped and saturated before it is stored (R94 lines 6 to 8). -/
theorem Filter.toInt_advance_b4 : (fi.advance x).b4.toInt = (ladder fi x.toInt).b4 := by
  have hstage := fi.toInt_stage (fi.toInt_advance_b3 x) fi.b3 fi.b4
  calc (fi.advance x).b4.toInt
      = clamp (softClip (fi.stage ((fi.advance x).b3 + fi.b3) fi.b4)).toInt (-SAT) SAT := toInt_clampWord_SAT _
    _ = (ladder fi x.toInt).b4 := by rw [toInt_softClip, hstage]; rfl

/-! ## The output taps -/

theorem Filter.toInt_lowpassTap : fi.lowpassTap.toInt = mulFixed fi.gain.toInt fi.b4.toInt :=
  toInt_mult _ _

theorem Filter.toInt_highpassTap : fi.highpassTap.toInt = wrap (fi.b0.toInt - mulFixed fi.gain.toInt fi.b4.toInt) := by
  rw [Filter.highpassTap, toInt_sub_eq_wrap, toInt_mult]

theorem Filter.toInt_bandpassTap :
    fi.bandpassTap.toInt = mulFixed fi.gain.toInt (wrap (3 * wrap (fi.b3.toInt - fi.b4.toInt))) := by
  rw [Filter.bandpassTap, toInt_mult, toInt_three_mul, toInt_sub_eq_wrap]

/-! ## One Sample, mode by mode -/

variable {fi}

theorem Filter.fproc_of_bypass (h : fi.mode = .bypass) : fi.fproc x = (fi, x) := by
  simp only [Filter.fproc, h]

theorem Filter.fproc_of_disabled (h : fi.mode = .disabled) : fi.fproc x = (fi, 0) := by
  simp only [Filter.fproc, h]

/-- In a filtering mode the filter advances by one ladder step (R94). -/
theorem Filter.fproc_fst_of_filtering (h : Filtering fi.mode) : (fi.fproc x).1 = fi.advance x := by
  obtain h | h | h := h <;> simp only [Filter.fproc, h]

/-- In a filtering mode the output Sample is read at the mode's tap of the advanced filter (R95). -/
theorem Filter.toInt_fproc_snd_of_filtering (h : Filtering fi.mode) :
    (fi.fproc x).2.toInt = outputSample (tapFixed fi.mode fi.gain.toInt (ladder fi x.toInt)) := by
  have hgain : (fi.advance x).gain = fi.gain := rfl
  obtain h | h | h := h <;> simp only [Filter.fproc, h, toInt_fixedToSample, tapFixed]
  · rw [Filter.toInt_lowpassTap, hgain, Filter.toInt_advance_b4]
  · rw [Filter.toInt_highpassTap, hgain, Filter.toInt_advance_b0, Filter.toInt_advance_b4]
  · rw [Filter.toInt_bandpassTap, hgain, Filter.toInt_advance_b3, Filter.toInt_advance_b4]

end Advance

/-! ## The filter commands -/

theorem State.fi_setFi_other (s : State) (ch : Chan) (v : Filter) :
    (s.setFi ch v).fi (other ch) = s.fi (other ch) :=
  s.fi_setFi_of_ne ch (other ch) v (by cases ch <;> decide)

/-- FPROC stores the advanced filter and widens its output Sample into RESULT (R92). -/
theorem exec_fproc (ch : Chan) (x : Sample) (s : State) : exec (.fproc ch x) s =
    .next ((s.setFi ch ((s.fi ch).fproc x).1).setResult (((s.fi ch).fproc x).2.signExtend 32)) := rfl

/-- FDUP writes the destination filter only (R96). -/
theorem exec_fdup (src dst : Chan) (s : State) :
    exec (.fdup src dst) s = .next (s.setFi dst ((s.fi src).fdup (s.fi dst))) := rfl

/-- FINIT stores the cleared filter (R97). -/
theorem exec_finit (ch : Chan) (s : State) : exec (.finit ch) s = .next (s.setFi ch Filter.cleared) := rfl

end Sys2Proof.Machine

namespace Sys2Proof.Proofs

open Sys2Proof Sys2Proof.Machine Sys2Proof.Reference

/-- Settles O8: the formula is the multiply's own, and no wrap moves a floor in range. -/
theorem multFloorsTheProductAndWraps : Obligations.MultFloorsTheProductAndWraps := by
  unfold Obligations.MultFloorsTheProductAndWraps
  refine ⟨toInt_mult, fun x y hlo hhi => ?_, fun y => ⟨mult_unity y, mult_neg_unity y, mult_zero y⟩⟩
  exact (toInt_mult x y).trans (wrap_of_mem hlo hhi)

/-- Settles O13: register by register, then the output tap of the mode. -/
theorem fprocRunsTheLadder : Obligations.FprocRunsTheLadder := by
  unfold Obligations.FprocRunsTheLadder
  intro ch x s hmode
  refine ⟨_, exec_fproc ch x s, ?_⟩
  simp only [State.setResult_result, State.fi_setResult, State.fi_setFi_self, State.fi_setFi_other,
    Filter.fproc_fst_of_filtering x hmode, toInt_signExtend_sample]
  obtain ⟨hlo, hhi⟩ := (s.fi ch).advance_inv x
  refine ⟨Filter.toInt_fproc_snd_of_filtering x hmode, Filter.toInt_advance_b0 _ x, Filter.toInt_advance_b1 _ x,
    Filter.toInt_advance_b2 _ x, Filter.toInt_advance_b3 _ x, Filter.toInt_advance_b4 _ x, hlo, hhi, rfl, trivial, ?_⟩
  cases ch <;> rfl

/-- Settles O12: the filter is written back as it was. -/
theorem fprocInBypassAndDisabled : Obligations.FprocInBypassAndDisabled := by
  unfold Obligations.FprocInBypassAndDisabled
  refine fun ch x s => ⟨fun h => ?_, fun h => ?_⟩
  · rw [exec_fproc, Filter.fproc_of_bypass x h, State.setFi_fi]
    rfl
  · rw [exec_fproc, Filter.fproc_of_disabled x h, State.setFi_fi]
    rfl

/-- Settles O15: with src = dst the filter is written back as it was. -/
theorem fdupCopiesTheSettingsOnly : Obligations.FdupCopiesTheSettingsOnly := by
  unfold Obligations.FdupCopiesTheSettingsOnly
  refine fun src dst s => ⟨⟨_, exec_fdup src dst s, ?_, State.fi_setFi_other .., State.setFi_eq ..⟩, ?_⟩
  · rw [State.fi_setFi_self, Filter.fdup]
  · rintro rfl
    rw [exec_fdup, Filter.fdup_self, State.setFi_fi]

/-- Settles O16: the cleared filter is the one of R97. -/
theorem finitClearsTheInstance : Obligations.FinitClearsTheInstance := by
  unfold Obligations.FinitClearsTheInstance
  refine fun ch s => ⟨_, exec_finit ch s, ?_, State.fi_setFi_other .., State.setFi_eq ..⟩
  rw [State.fi_setFi_self, Filter.cleared]

end Sys2Proof.Proofs
end

section
/-!
PROOFS. The mute machine: the command MUTE (R100), the gain numerator (R101) and the advance of a FRAME step (R103).
-/

namespace Sys2Proof.Machine

/-! ## The command MUTE -/

section Command

variable {s : State}

/-- MUTE 1 in PassThrough starts the ramp to Muted (R100). -/
theorem execMute_on_of_passThrough (h : s.mute.state = .passThrough) :
    execMute true s = .next { s with mute := { state := .rampToMute, count := 512 } } := by
  simp only [execMute, h]

/-- MUTE 0 in Muted starts the ramp to PassThrough (R100). -/
theorem execMute_off_of_muted (h : s.mute.state = .muted) :
    execMute false s = .next { s with mute := { state := .rampToUnmute, count := 0 } } := by
  simp only [execMute, h]

/-- Any other MUTE request is ignored (R100). -/
theorem execMute_ignores {on : Bool} (hon : ¬(on = true ∧ s.mute.state = .passThrough))
    (hoff : ¬(on = false ∧ s.mute.state = .muted)) : execMute on s = .next s := by
  obtain hsame | ⟨h, hpass, -⟩ | ⟨h, hmuted, -⟩ := execMute_cases on s
  · exact hsame
  · exact absurd ⟨h, hpass⟩ hon
  · exact absurd ⟨h, hmuted⟩ hoff

end Command

/-! ## The gain numerator and the advance, state by state -/

namespace Mute

variable {m : Mute}

theorem gainNum_of_passThrough (h : m.state = .passThrough) : m.gainNum = 512 := by
  simp only [gainNum, h]

theorem gainNum_of_rampToMute (h : m.state = .rampToMute) : m.gainNum = m.count.toNat := by
  simp only [gainNum, h]

theorem gainNum_of_muted (h : m.state = .muted) : m.gainNum = 0 := by
  simp only [gainNum, h]

theorem gainNum_of_rampToUnmute (h : m.state = .rampToUnmute) : m.gainNum = m.count.toNat := by
  simp only [gainNum, h]

/-- In every state the invariant makes the counter the gain numerator (R25, R101). -/
theorem gainNum_eq_count (hinv : m.Inv) : m.gainNum = m.count.toNat := by
  obtain ⟨-, hpass, hmuted, -, -⟩ := hinv
  cases h : m.state with
  | passThrough => rw [gainNum_of_passThrough h, hpass h]; rfl
  | rampToMute => exact gainNum_of_rampToMute h
  | muted => rw [gainNum_of_muted h, hmuted h]; rfl
  | rampToUnmute => exact gainNum_of_rampToUnmute h

theorem gainNum_le (hinv : m.Inv) : m.gainNum ≤ 512 :=
  (gainNum_eq_count hinv).trans_le hinv.1

theorem advance_of_passThrough (h : m.state = .passThrough) : m.advance = m := by
  simp only [advance, h]

theorem advance_of_rampToMute (h : m.state = .rampToMute) : m.advance =
    { state := if m.count - 1 = 0 then .muted else .rampToMute, count := m.count - 1 } := by
  simp only [advance, h]

theorem advance_of_muted (h : m.state = .muted) : m.advance = m := by
  simp only [advance, h]

theorem advance_of_rampToUnmute (h : m.state = .rampToUnmute) : m.advance =
    { state := if m.count + 1 = 512 then .passThrough else .rampToUnmute, count := m.count + 1 } := by
  simp only [advance, h]

end Mute

end Sys2Proof.Machine

namespace Sys2Proof.Proofs

open Sys2Proof Sys2Proof.Machine Sys2Proof.Reference

/-- Settles O22: each resting state starts its own ramp, and no other request is taken. -/
theorem muteStartsARampOnlyFromRest : Obligations.MuteStartsARampOnlyFromRest := by
  unfold Obligations.MuteStartsARampOnlyFromRest
  refine fun on s => ⟨?_, ?_, execMute_ignores⟩
  · rintro rfl
    exact execMute_on_of_passThrough
  · rintro rfl
    exact execMute_off_of_muted

/-- Settles O24: the numerator is read state by state, and the bound is the counter's. -/
theorem muteGainNumeratorByState : Obligations.MuteGainNumeratorByState := by
  unfold Obligations.MuteGainNumeratorByState
  exact fun m hinv => ⟨Mute.gainNum_of_passThrough, Mute.gainNum_of_rampToMute, Mute.gainNum_of_muted,
    Mute.gainNum_of_rampToUnmute, Mute.gainNum_le hinv⟩

/-- Settles O29: the invariant keeps the counter of a ramp off the end where its 10 bits would wrap. -/
theorem muteAdvanceCountsAndEndsTheRamp : Obligations.MuteAdvanceCountsAndEndsTheRamp := by
  unfold Obligations.MuteAdvanceCountsAndEndsTheRamp
  intro m hinv
  obtain ⟨-, -, -, hdown, hup⟩ := hinv
  refine ⟨fun h => ?_, fun h => ?_, fun h => h.elim Mute.advance_of_passThrough Mute.advance_of_muted⟩
  · have hpos := hdown h
    have hend : m.count - 1 = 0 ↔ m.count.toNat = 1 := by bv_omega
    simp only [Mute.advance_of_rampToMute h, hend, and_true]
    bv_omega
  · have hlt := hup h
    have hend : m.count + 1 = 512 ↔ m.count.toNat = 511 := by bv_omega
    simp only [Mute.advance_of_rampToUnmute h, hend, and_true]
    bv_omega

end Sys2Proof.Proofs
end

section
/-!
PROOFS. Control-channel acquisition (44_control_acquisition.md): the affine map (R107), the smoothing update (R108), the
quantiser (R109), and what ACQ_TICK writes for a value and for an ERROR (R106, R110, R111).
-/

namespace Sys2Proof.Machine

open Sys2Proof.Reference

/-! ## Map, smoothing and quantiser on integers -/

/-- The map is R107's formula, wrapped once. -/
theorem toInt_affine (p : Params) (r : BitVec 16) :
    (affine p r).toInt = wrap (r.toNat * p.affMul.toInt + p.affAdd.toInt) := by
  rw [affine, toInt_wrap32, bmod_eq_wrap]

/-- The update is R108's formula: difference and sum wrap, the multiply is R83's. -/
theorem toInt_smooth (st norm : Word) :
    (smooth st norm).toInt = wrap (st.toInt + mulFixed (wrap (norm.toInt - st.toInt)) 419430) := by
  have halpha : ALPHA.toInt = 419430 := by decide
  rw [smooth, toInt_add_eq_wrap, toInt_mult, toInt_sub_eq_wrap, halpha]

/-- The 12 bits of a published value hold every clamped integer (R109). -/
theorem toNat_quant (st : Word) : ((quant st).toNat : Int) = clampTo (floorShift st.toInt 11) 0 4095 := by
  obtain ⟨hlo, hhi⟩ := clamp_mem (lo := 0) (hi := 4095) (by decide) (asr st.toInt 11)
  calc ((quant st).toNat : Int)
      = clamp (asr st.toInt 11) 0 4095 % 2 ^ 12 := by rw [quant, BitVec.toNat_ofInt]; norm_num; omega
    _ = clamp (asr st.toInt 11) 0 4095 := Int.emod_eq_of_lt hlo (by omega)
    _ = clampTo (floorShift st.toInt 11) 0 4095 := by rw [asr_eq_floor, clamp, clampTo, floorShift]

/-! ## One tick of the channel registers -/

namespace Acquisition

variable (p : Params) (a : Acquisition) (r : BitVec 16)

theorem tick_value_raw : (a.tick p (.value r)).raw = a.raw.set a.chan r := rfl

theorem tick_value_state :
    (a.tick p (.value r)).state = a.state.set a.chan (smooth (a.state.get a.chan) (affine p r)) := rfl

theorem tick_value_val :
    (a.tick p (.value r)).val = a.val.set a.chan (quant (smooth (a.state.get a.chan) (affine p r))) := rfl

/-- An ERROR moves the channel index on and writes nothing else (R110). -/
theorem tick_error : a.tick p .error = { a with chan := a.chan + 1 } := rfl

/-- Whatever the reading, the next tick converts the next channel, round robin (R111). -/
theorem tick_chan (reading : Reading) : (a.tick p reading).chan.val = (a.chan.val + 1) % 4 := by
  have hnext : (a.tick p reading).chan = a.chan + 1 := by cases reading <;> rfl
  rw [hnext, Fin.val_add]
  rfl

/-- A tick writes the registers of the selected channel only (R106). -/
theorem tick_value_get_of_ne {j : Fin 4} (h : j ≠ a.chan) :
    (a.tick p (.value r)).raw.get j = a.raw.get j ∧ (a.tick p (.value r)).state.get j = a.state.get j ∧
      (a.tick p (.value r)).val.get j = a.val.get j :=
  ⟨Quad.get_set_of_ne _ _ _ _ h, Quad.get_set_of_ne _ _ _ _ h, Quad.get_set_of_ne _ _ _ _ h⟩

end Acquisition

/-- ACQ_TICK writes the acquisition registers alone, and is taken until STOP (R106, R115). -/
theorem performWith_acqTick (p : Params) (reading : Reading) {s : State} (h : s.stopFlag = false) :
    performWith p (.acqTick reading) s = .next { s with acq := s.acq.tick p reading } := by
  obtain ⟨hstop, -⟩ | ⟨-, htick⟩ := acqTick_cases p reading s
  · exact absurd hstop (by simp [h])
  · exact htick

end Sys2Proof.Machine

namespace Sys2Proof.Proofs

open Sys2Proof Sys2Proof.Machine Sys2Proof.Reference

/-- Settles O39: the written registers are read back at acqChan, the others at every other index. -/
theorem acqTickSmoothsOneChannel : Obligations.AcqTickSmoothsOneChannel := by
  unfold Obligations.AcqTickSmoothsOneChannel
  intro p r s hrun
  refine ⟨_, performWith_acqTick p (.value r) hrun, ?_, ?_, ?_, fun j => s.acq.tick_value_get_of_ne p r,
    s.acq.tick_chan p _, rfl⟩
  · rw [Acquisition.tick_value_raw, Quad.get_set_self]
  · rintro _ rfl
    rw [Acquisition.tick_value_state, Quad.get_set_self, toInt_smooth, toInt_affine]
  · rw [Acquisition.tick_value_state, Acquisition.tick_value_val, Quad.get_set_self, Quad.get_set_self, toNat_quant]

/-- Settles O40: the tick of an ERROR differs from the old registers in the channel index alone. -/
theorem errorReadingKeepsTheStaleValues : Obligations.ErrorReadingKeepsTheStaleValues := by
  unfold Obligations.ErrorReadingKeepsTheStaleValues
  intro p s hrun
  refine ⟨_, performWith_acqTick p .error hrun, s.acq.tick_chan p .error, ?_⟩
  rw [Acquisition.tick_error]

end Sys2Proof.Proofs
end

section
/-!
PROOFS. Status access (45_status_access.md): the status map of RDSTAT (R30, R114), the meters of GETLEVEL (R112), GETLOAD
(R113), and the commands that change nothing (R116, R117).
-/

namespace Sys2Proof.Machine

open Sys2Proof.Reference

/-! ## The status map -/

/-- The register numbers the status map lists; any other number is reserved (R30). -/
def statusNumbers : List Nat := List.range' 0x00 0x19 ++ List.range' 0x20 10 ++ List.range' 0x30 10

/-- Bit k of FLAGS counts 2^k (R30). -/
theorem flagsWord_eq_sum (s : State) : flagsWord s = BitVec.ofNat 32 ((if s.stopFlag then 1 else 0) +
    (if s.fatalFlag then 2 else 0) + (if s.audio.phase = .inBlock then 4 else 0)) := by
  unfold flagsWord
  cases s.stopFlag <;> cases s.fatalFlag <;> cases s.audio.phase <;> rfl

/-- The status map tabulates `statusValue` at the numbers it lists: only FLAGS and the five enumerations are not read off
directly (R30). -/
theorem statusTable_eq_map (s : State) :
    statusTable s = statusNumbers.map fun k => (k, statusValue s (BitVec.ofNat 8 k)) := by
  simp only [statusTable, statusNumbers, statusValue, Filter.statusReg, flagsWord_eq_sum, BitVec.ofNat_toNat,
    BitVec.toNat_ofNat, List.range', List.map_cons, List.map_nil, List.flatMap_cons, List.flatMap_nil, List.cons_append,
    List.nil_append, List.cons.injEq, Nat.reducePow, Nat.reduceMod, Nat.reduceAdd, Nat.reduceLT, Nat.reduceLeDiff,
    ↓reduceIte, true_and, and_true]
  refine ⟨?_, ?_, ?_, ?_, ?_⟩
  · cases s.dispatcher.active <;> rfl
  · cases s.dispatcher.selPhase <;> rfl
  · cases s.mute.state <;> rfl
  · cases s.fi0.mode <;> rfl
  · cases s.fi1.mode <;> rfl

/-- A pair stands in the status map just when its number is listed and its value is read there. -/
theorem mem_statusTable_iff {s : State} {reg : BitVec 8} {v : Word} :
    (reg.toNat, v) ∈ statusTable s ↔ reg.toNat ∈ statusNumbers ∧ statusValue s reg = v := by
  have hreg : BitVec.ofNat 8 reg.toNat = reg := by rw [BitVec.ofNat_toNat, BitVec.setWidth_eq]
  rw [statusTable_eq_map, List.mem_map]
  constructor
  · rintro ⟨k, hk, heq⟩
    obtain ⟨rfl, rfl⟩ := Prod.mk.inj heq
    exact ⟨hk, by rw [hreg]⟩
  · rintro ⟨hk, rfl⟩
    exact ⟨reg.toNat, hk, by rw [hreg]⟩

/-- A filter instance exposes ten registers; t1, t2 and what follows read 0 (R19, R30). -/
theorem Filter.statusReg_of_ge (fi : Filter) {k : Nat} (h : 10 ≤ k) : fi.statusReg k = 0 := by
  unfold Filter.statusReg
  split
  case h_11 => rfl
  all_goals omega

/-- Above the global registers the number is a place in a filter instance's block of sixteen, or reserved (R30). -/
theorem statusValue_of_ge (s : State) {reg : BitVec 8} (h : 0x19 ≤ reg.toNat) : statusValue s reg =
    if 0x20 ≤ reg.toNat ∧ reg.toNat < 0x30 then s.fi0.statusReg (reg.toNat - 0x20)
    else if 0x30 ≤ reg.toNat ∧ reg.toNat < 0x40 then s.fi1.statusReg (reg.toNat - 0x30)
    else 0 := by
  unfold statusValue
  split
  case h_26 => rfl
  all_goals omega

/-- A number the map does not list reads 0 (R30). -/
theorem statusValue_of_notMem (s : State) {reg : BitVec 8} (h : reg.toNat ∉ statusNumbers) : statusValue s reg = 0 := by
  simp only [statusNumbers, List.mem_append, List.mem_range'_1] at h
  rw [statusValue_of_ge s (by omega)]
  split_ifs
  · exact s.fi0.statusReg_of_ge (by omega)
  · exact s.fi1.statusReg_of_ge (by omega)
  · rfl

/-! ## The status commands -/

/-- A 2-bit index names the meter of its number (R112). -/
theorem meterOfIndex_val (idx : BitVec 2) : (meterOfIndex idx).val = idx.toNat := by
  revert idx
  decide

/-- GETLEVEL widens the meter into RESULT and clears it (R112). -/
theorem exec_getlevel (idx : BitVec 2) (s : State) : exec (.getlevel idx) s =
    .next ((s.setResult ((s.peak.get (meterOfIndex idx)).setWidth 32)).setPeak (meterOfIndex idx) 0) := rfl

/-- GETLOAD writes RESULT alone (R113). -/
theorem exec_getload (s : State) : exec .getload s = .next (s.setResult s.lm.load) := rfl

/-- RDSTAT writes RESULT alone (R114). -/
theorem exec_rdstat (reg : BitVec 8) (s : State) : exec (.rdstat reg) s = .next (s.setResult (statusValue s reg)) := rfl

/-! ## The commands that change nothing -/

/-- NOP and the five reserved commands (R116, R117). -/
def ignoredCommands : List Instr := [.nop, .reservedB, .reservedC, .reservedD, .reservedE, .reservedF]

theorem exec_of_mem_ignoredCommands (s : State) : ∀ i ∈ ignoredCommands, exec i s = .next s := by
  simp only [ignoredCommands, List.forall_mem_cons]
  exact ⟨rfl, rfl, rfl, rfl, rfl, rfl, List.forall_mem_nil _⟩

/-- The opcodes of the commands that change nothing (R54). -/
theorem decodeOp_mem_ignoredCommands {op : Nat} (h : op = 0 ∨ 11 ≤ op) (w : Word) :
    decodeOp op w ∈ ignoredCommands := by
  unfold decodeOp
  split
  case h_1 | h_12 | h_13 | h_14 | h_15 | h_16 => simp [ignoredCommands]
  all_goals omega

/-- The words of opcode 0x0 lie below 2^28, those of the reserved opcodes from 0xB0000000 up (R46, R54). -/
theorem decode_mem_ignoredCommands {w : Word} (h : w.toNat < 2 ^ 28 ∨ 11 * 2 ^ 28 ≤ w.toNat) :
    decode w ∈ ignoredCommands := by
  have hw := w.isLt
  rw [decode_eq]
  exact decodeOp_mem_ignoredCommands (by omega) w

end Sys2Proof.Machine

namespace Sys2Proof.Proofs

open Sys2Proof Sys2Proof.Machine Sys2Proof.Reference

/-- Settles O44: a listed number reads the value of its own row, and any other number reads 0. -/
theorem rdstatAnswersTheStatusMap : Obligations.RdstatAnswersTheStatusMap := by
  unfold Obligations.RdstatAnswersTheStatusMap
  refine fun reg s => ⟨fun v hrow => ?_, fun hnone => ?_⟩
  · obtain ⟨-, rfl⟩ := mem_statusTable_iff.mp hrow
    exact exec_rdstat reg s
  · have hreserved : reg.toNat ∉ statusNumbers := fun hk => hnone _ (mem_statusTable_iff.mpr ⟨hk, rfl⟩)
    rw [exec_rdstat, statusValue_of_notMem s hreserved]
    rfl

/-- Settles O42: the meter fits in RESULT, and the write of one meter leaves the others. -/
theorem getlevelReadsAndClearsOneMeter : Obligations.GetlevelReadsAndClearsOneMeter := by
  unfold Obligations.GetlevelReadsAndClearsOneMeter
  intro idx i s hi
  obtain rfl : meterOfIndex idx = i := Fin.ext ((meterOfIndex_val idx).trans hi.symm)
  refine ⟨_, exec_getlevel idx s, ?_, Quad.get_set_self .., fun j hj => Quad.get_set_of_ne _ _ _ _ hj, rfl⟩
  exact BitVec.toNat_setWidth_of_le (by decide)

/-- Settles O43: GETLOAD's write of RESULT is the whole effect. -/
theorem getloadAnswersTheLoad : Obligations.GetloadAnswersTheLoad := by
  unfold Obligations.GetloadAnswersTheLoad
  exact exec_getload

/-- Settles O46: the opcode field alone makes a word one of the ignored commands. -/
theorem nopAndReservedOpcodesChangeNothing : Obligations.NopAndReservedOpcodesChangeNothing := by
  unfold Obligations.NopAndReservedOpcodesChangeNothing
  refine ⟨fun s => ?_, fun w s hw => exec_of_mem_ignoredCommands s _ (decode_mem_ignoredCommands hw)⟩
  simpa [ignoredCommands] using exec_of_mem_ignoredCommands s

end Sys2Proof.Proofs
end

section
/-!
PROOFS. RESET (R131) and the conditions under which the agents' first steps are enabled (R60, R81, R106, R115).
-/

namespace Sys2Proof.Machine

/-! ## RESET -/

/-- RESET is taken in every state and keeps nothing of it but the model's own fields (R131). -/
theorem performWith_reset (p : Params) (s : State) : performWith p .reset s =
    .next { State.reset with pending := s.pending, draws := s.draws, delivered := s.delivered } := rfl

/-- Both filter instances come out of RESET cleared (R16, R131). -/
@[simp] theorem State.fi_reset (ch : Chan) : State.reset.fi ch = Filter.cleared := by cases ch <;> rfl

/-! ## When a step is enabled -/

namespace Event

variable {p : Params} {s : State}

/-- A block is admitted by an idle sequencer that is not stopped, within MAX_FRAMES and of length 2F (R60, R115). -/
theorem enabled_blockStart_iff {frames : Nat} {xs : List Sample} {now : Word} :
    enabled p (.blockStart frames xs now) s = true ↔
      s.audio.phase = .idle ∧ s.stopFlag = false ∧ frames ≤ p.maxFrames ∧ xs.length = 2 * frames := by
  simp only [enabled, blockStartEnabled, decide_eq_true_eq]

/-- A reading is taken until STOP (R106, R115). -/
theorem enabled_acqTick_iff {r : Reading} : enabled p (.acqTick r) s = true ↔ s.stopFlag = false := by
  simp only [enabled, Bool.not_eq_true']

/-- The dispatcher has a micro-step while a switch is pending (R81). -/
theorem enabled_selStep_iff : enabled p .selStep s = true ↔ s.dispatcher.selPhase ≠ .idle := by
  simp only [enabled, decide_eq_true_eq]

/-- A command is enabled in every state (R46). -/
@[simp] theorem enabled_command (w : Word) : enabled p (.command w) s = true := rfl

/-- An idle dispatcher has no micro-step (R81). -/
theorem enabled_selStep_of_idle (h : s.dispatcher.selPhase = .idle) : enabled p .selStep s = false :=
  Bool.eq_false_iff.mpr fun he => enabled_selStep_iff.mp he h

end Event

end Sys2Proof.Machine

namespace Sys2Proof.Proofs

open Sys2Proof Sys2Proof.Machine Sys2Proof.Reference

/-- Settles O47: the reset state is the table of R131, and it is idle and not stopped, so every agent is ready. -/
theorem resetSetsEveryStateElement : Obligations.ResetSetsEveryStateElement := by
  unfold Obligations.ResetSetsEveryStateElement
  refine fun s => ⟨_, performWith_reset Config.params s, State.fi_reset, rfl, rfl, rfl, rfl, rfl, rfl, rfl, rfl, rfl, rfl,
    rfl, fun p frames xs now w r hfits hlen => ⟨?_, ?_, ?_, ?_⟩⟩
  · exact Event.enabled_blockStart_iff.mpr ⟨rfl, rfl, hfits, hlen⟩
  · exact Event.enabled_acqTick_iff.mpr rfl
  · exact Event.enabled_command w
  · exact Event.enabled_selStep_of_idle rfl

end Sys2Proof.Proofs
end

section
/-!
PROOFS. The words of the commands: decoding undoes encoding, and encoding undoes decoding up to the reserved bits
(30_encoding.md R46 to R55).
-/

namespace Sys2Proof

/-! ## One-bit fields -/

@[simp] theorem bit_chanOfBit (b : Bool) : (chanOfBit b).bit = b := by cases b <;> rfl

/-- A one-bit field as a number (R53). -/
theorem bitAt_toNat (w : Word) (i : Nat) : (bitAt w i).toNat = w.toNat / 2 ^ i % 2 := by
  rw [bitAt, BitVec.getLsbD, Nat.toNat_testBit]

/-- A one-bit field is determined by its number. -/
theorem bitAt_eq_of_toNat {w : Word} {i : Nat} {b : Bool} (h : w.toNat / 2 ^ i % 2 = b.toNat) : bitAt w i = b := by
  rw [bitAt_eq_decide, h]
  cases b <;> rfl

/-! ## Decoding an encoded command -/

open Laws.WordForm in
/-- The word of a command carries the number of its row in bits 31:28 (R46, R54). -/
theorem encode_opcode (i : Instr) : Statement i := by
  cases i with
  | nop => exact nop
  | fsetp ch mode cutoff res => exact fsetp ch mode cutoff res
  | fproc ch sample => exact fproc ch sample
  | fdup src dst => exact fdup src dst
  | finit ch => exact finit ch
  | select idx => exact select idx
  | mute on => exact mute on
  | getlevel idx => exact getlevel idx
  | getload => exact getload
  | rdstat reg => exact rdstat reg
  | stop => exact stop
  | reservedB => exact reservedB
  | reservedC => exact reservedC
  | reservedD => exact reservedD
  | reservedE => exact reservedE
  | reservedF => exact reservedF

/-- Decoding the word of a command reads operands by the command's own row. -/
theorem decode_encode_eq (i : Instr) :
    decode (encode i) = decodeOp (Laws.WordForm.opcodeOf i).toNat (encode i) := by
  rw [decode, encode_opcode i]

/-- Decoding undoes encoding: each operand is read at the place where it was put (R47 to R53). -/
theorem decode_encode (i : Instr) : decode (encode i) = i := by
  rw [decode_encode_eq]
  have hw := encode_toNat i
  cases i with
  | fsetp ch mode cutoff res =>
    have hch := ch.bit.toNat_lt
    have hmode := mode.isLt
    have hcutoff := cutoff.isLt
    have hres := res.isLt
    simp only [encodeNat, placed, placedBit] at hw
    change Instr.fsetp (chanOfBit (bitAt _ 27)) (bitField _ 24 3) (bitField _ 12 12) (bitField _ 0 12) = _
    rw [bitAt_eq_of_toNat (b := ch.bit) (by omega), bitField_eq_of_toNat (v := mode) (by omega),
      bitField_eq_of_toNat (v := cutoff) (by omega), bitField_eq_of_toNat (v := res) (by omega), chanOfBit_bit]
  | fproc ch sample =>
    have hch := ch.bit.toNat_lt
    have hsample := sample.isLt
    simp only [encodeNat, placed, placedBit] at hw
    change Instr.fproc (chanOfBit (bitAt _ 27)) (bitField _ 0 16) = _
    rw [bitAt_eq_of_toNat (b := ch.bit) (by omega), bitField_eq_of_toNat (v := sample) (by omega), chanOfBit_bit]
  | fdup src dst =>
    have hsrc := src.bit.toNat_lt
    have hdst := dst.bit.toNat_lt
    simp only [encodeNat, placedBit] at hw
    change Instr.fdup (chanOfBit (bitAt _ 27)) (chanOfBit (bitAt _ 26)) = _
    rw [bitAt_eq_of_toNat (b := src.bit) (by omega), bitAt_eq_of_toNat (b := dst.bit) (by omega), chanOfBit_bit,
      chanOfBit_bit]
  | finit ch =>
    have hch := ch.bit.toNat_lt
    simp only [encodeNat, placedBit] at hw
    change Instr.finit (chanOfBit (bitAt _ 27)) = _
    rw [bitAt_eq_of_toNat (b := ch.bit) (by omega), chanOfBit_bit]
  | select idx =>
    have hidx := idx.isLt
    simp only [encodeNat, placed] at hw
    exact congrArg Instr.select (bitField_eq_of_toNat (by omega))
  | mute on =>
    have hon := on.toNat_lt
    simp only [encodeNat, placedBit] at hw
    exact congrArg Instr.mute (bitAt_eq_of_toNat (by omega))
  | getlevel idx =>
    have hidx := idx.isLt
    simp only [encodeNat, placed] at hw
    exact congrArg Instr.getlevel (bitField_eq_of_toNat (by omega))
  | rdstat reg =>
    have hreg := reg.isLt
    simp only [encodeNat, placed] at hw
    exact congrArg Instr.rdstat (bitField_eq_of_toNat (by omega))
  | nop | getload | stop | reservedB | reservedC | reservedD | reservedE | reservedF => rfl

/-! ## Masking a word -/

/-- A mask that keeps the bits from `hi` up and those below `lo` keeps the quotient by 2^hi and the remainder by
2^lo. -/
theorem and_ends {n k hi lo : Nat} (hlo : lo ≤ hi) (hn : n < 2 ^ (hi + k)) :
    n &&& ((2 ^ k - 1) * 2 ^ hi + (2 ^ lo - 1)) = n / 2 ^ hi * 2 ^ hi + n % 2 ^ lo := by
  have hlow : 2 ^ lo - 1 < 2 ^ hi :=
    (Nat.sub_lt (by positivity) one_pos).trans_le (Nat.pow_le_pow_right two_pos hlo)
  have hdiv : ((2 ^ k - 1) * 2 ^ hi + (2 ^ lo - 1)) / 2 ^ hi = 2 ^ k - 1 := by
    rw [Nat.mul_comm, Nat.mul_add_div (by positivity), Nat.div_eq_of_lt hlow, add_zero]
  have hmod : ((2 ^ k - 1) * 2 ^ hi + (2 ^ lo - 1)) % 2 ^ hi = 2 ^ lo - 1 := by
    rw [Nat.mul_comm, Nat.mul_add_mod, Nat.mod_eq_of_lt hlow]
  have hquot : n / 2 ^ hi < 2 ^ k := Nat.div_lt_of_lt_mul (by rwa [← pow_add])
  rw [← Nat.div_add_mod' (n &&& _) (2 ^ hi), Nat.and_div_two_pow, Nat.and_mod_two_pow, hdiv, hmod,
    Nat.and_two_pow_sub_one_eq_mod, Nat.and_two_pow_sub_one_eq_mod, Nat.mod_eq_of_lt hquot,
    Nat.mod_mod_of_dvd _ (pow_dvd_pow 2 hlo)]

/-- The masked word as a number, for a mask of the shape all formats share: the bits from `hi` up and those below `lo`
(R47 to R52). -/
theorem toNat_and_mask {w mask : Word} (hi lo : Nat) (hlo : lo ≤ hi) (hhi : hi ≤ 32)
    (hmask : mask.toNat = (2 ^ (32 - hi) - 1) * 2 ^ hi + (2 ^ lo - 1)) :
    (w &&& mask).toNat = w.toNat / 2 ^ hi * 2 ^ hi + w.toNat % 2 ^ lo := by
  rw [BitVec.toNat_and, hmask, and_ends hlo (by rw [Nat.add_sub_of_le hhi]; exact w.isLt)]

/-- The ends `hi` and `lo` between which the format of an opcode has its reserved bits (R47 to R52). -/
def reservedEnds (op : Nat) : Nat × Nat :=
  match op with
  | 0x1 => (28, 28)
  | 0x2 => (27, 16)
  | 0x3 => (26, 0)
  | 0x4 => (27, 0)
  | 0x5 => (28, 3)
  | 0x6 => (28, 1)
  | 0x7 => (28, 2)
  | 0x9 => (28, 8)
  | _ => (28, 0)

/-- The mask of an opcode's fields leaves out the bits between its ends. -/
theorem fieldMask_toNat : ∀ op < 2 ^ 4, (reservedEnds op).2 ≤ (reservedEnds op).1 ∧ (reservedEnds op).1 ≤ 32 ∧
    (Reference.fieldMask op).toNat =
      (2 ^ (32 - (reservedEnds op).1) - 1) * 2 ^ (reservedEnds op).1 + (2 ^ (reservedEnds op).2 - 1) := by
  decide

/-- Encoding a decoded word puts each operand back where it was read, and 0 in the reserved bits (R47 to R53, R58). -/
theorem encode_decode (w : Word) : encode (decode w) = w &&& Reference.fieldMask (w.toNat / 2 ^ 28) := by
  apply BitVec.eq_of_toNat_eq
  have hw := w.isLt
  obtain ⟨op, hop⟩ : ∃ op, op = w.toNat / 2 ^ 28 := ⟨_, rfl⟩
  have hlt : op < 2 ^ 4 := by omega
  obtain ⟨hlo, hhi, hmask⟩ := fieldMask_toNat op hlt
  rw [encode_toNat, decode_eq, ← hop, Nat.mod_eq_of_lt hlt, toNat_and_mask _ _ hlo hhi hmask]
  clear hlo hhi hmask
  interval_cases op <;>
    simp only [decodeOp, encodeNat, placed, placedBit, bitField_toNat, bitAt_toNat, bit_chanOfBit, reservedEnds] <;>
    omega

end Sys2Proof

namespace Sys2Proof.Proofs

open Sys2Proof Sys2Proof.Machine Sys2Proof.Reference

/-- Settles O6: command by command, each operand is read where it was put. -/
theorem decodeInvertsEncode : Obligations.DecodeInvertsEncode := by
  unfold Obligations.DecodeInvertsEncode
  exact decode_encode

/-- Settles O7: opcode by opcode, the fields make up the word but for its reserved bits. -/
theorem encodeOfDecodeClearsReservedBits : Obligations.EncodeOfDecodeClearsReservedBits := by
  unfold Obligations.EncodeOfDecodeClearsReservedBits
  exact encode_decode

/-- Settles O5: each word of the list is decoded by computation. -/
theorem specWordsDecode : Obligations.SpecWordsDecode := by
  unfold Obligations.SpecWordsDecode
  decide

end Sys2Proof.Proofs
end

section
/-!
PROOFS. What one command and one event can do, as two relations on states, and what follows from them alone: who writes
each state element (10_state.md), the stop flag (R115), the fatal flag (R119), the meters (R26), RESULT (R29).
-/

namespace Sys2Proof.Machine

open Sys2Proof.Reference

/-! ## What a command can do -/

/-- What a command can do: `CommandStep s i t` says that t is s, or s with the writes of the command i (R54). -/
inductive CommandStep (s : State) : Instr → State → Prop
  /-- Nothing is written: NOP, a reserved opcode, a refused request. -/
  | ignored (i : Instr) : CommandStep s i s
  | fsetp (ch : Chan) (mode : BitVec 3) (c r : Value12) (m : FilterMode) :
    CommandStep s (.fsetp ch mode c r) (s.setFi ch ((s.fi ch).fsetp c r m))
  | fproc (ch : Chan) (x : Sample) : CommandStep s (.fproc ch x)
      ((s.setFi ch ((s.fi ch).fproc x).1).setResult (((s.fi ch).fproc x).2.signExtend 32))
  | fdup (src dst : Chan) : CommandStep s (.fdup src dst) (s.setFi dst ((s.fi src).fdup (s.fi dst)))
  | finit (ch : Chan) : CommandStep s (.finit ch) (s.setFi ch Filter.cleared)
  | select (idx : BitVec 3) (e : Effect) (hidle : s.dispatcher.selPhase = .idle) : CommandStep s (.select idx)
      { s with dispatcher := { s.dispatcher with selPrev := s.dispatcher.active, selNew := e, selPhase := .p1 } }
  | muteOn (hpass : s.mute.state = .passThrough) :
    CommandStep s (.mute true) { s with mute := { state := .rampToMute, count := 512 } }
  | muteOff (hmuted : s.mute.state = .muted) :
    CommandStep s (.mute false) { s with mute := { state := .rampToUnmute, count := 0 } }
  | getlevel (idx : BitVec 2) : CommandStep s (.getlevel idx)
      ((s.setResult ((s.peak.get (meterOfIndex idx)).setWidth 32)).setPeak (meterOfIndex idx) 0)
  | getload : CommandStep s .getload (s.setResult s.lm.load)
  | rdstat (reg : BitVec 8) : CommandStep s (.rdstat reg) (s.setResult (statusValue s reg))
  | stop : CommandStep s .stop { s with stopFlag := true }

/-- FSETP with a mode of R17 sets the instance (R89). -/
theorem exec_fsetp_of_some {mode : BitVec 3} {m : FilterMode} (h : requestedMode mode = some m) (ch : Chan)
    (c r : Value12) (s : State) : exec (.fsetp ch mode c r) s = .next (s.setFi ch ((s.fi ch).fsetp c r m)) := by
  simp only [exec, execFsetp, h]

/-- FSETP with a mode outside R17 is ignored (R89). -/
theorem exec_fsetp_of_none {mode : BitVec 3} (h : requestedMode mode = none) (ch : Chan) (c r : Value12) (s : State) :
    exec (.fsetp ch mode c r) s = .next s := by
  simp only [exec, execFsetp, h]

/-- Every command completes, in one of the ways listed (R118, R125). -/
theorem exec_completes (i : Instr) (s : State) : ∃ t, exec i s = .next t ∧ CommandStep s i t := by
  cases i with
  | fsetp ch mode c r =>
    cases hm : requestedMode mode with
    | some m => exact ⟨_, exec_fsetp_of_some hm ch c r s, .fsetp ch mode c r m⟩
    | none => exact ⟨_, exec_fsetp_of_none hm ch c r s, .ignored _⟩
  | select idx =>
    obtain h | ⟨hidle, e, -, h⟩ := execSelect_cases idx s
    · exact ⟨_, h, .ignored _⟩
    · exact ⟨_, h, .select idx e hidle⟩
  | mute on =>
    obtain h | ⟨rfl, hpass, h⟩ | ⟨rfl, hmuted, h⟩ := execMute_cases on s
    · exact ⟨_, h, .ignored _⟩
    · exact ⟨_, h, .muteOn hpass⟩
    · exact ⟨_, h, .muteOff hmuted⟩
  | fproc ch x => exact ⟨_, rfl, .fproc ch x⟩
  | fdup src dst => exact ⟨_, rfl, .fdup src dst⟩
  | finit ch => exact ⟨_, rfl, .finit ch⟩
  | getlevel idx => exact ⟨_, rfl, .getlevel idx⟩
  | getload => exact ⟨_, rfl, .getload⟩
  | rdstat reg => exact ⟨_, rfl, .rdstat reg⟩
  | stop => exact ⟨_, rfl, .stop⟩
  | nop | reservedB | reservedC | reservedD | reservedE | reservedF => exact ⟨_, rfl, .ignored _⟩

theorem commandStep_of_exec {i : Instr} {s t : State} (h : exec i s = .next t) : CommandStep s i t := by
  obtain ⟨t', ht', hstep⟩ := exec_completes i s
  cases ht'.symm.trans h
  exact hstep

namespace CommandStep

variable {s t : State} {i : Instr}

/-- No command writes the control channels, the load monitor, the audio sequencer, a hidden state or the fatal flag,
nor the model's own fields. -/
theorem frame (h : CommandStep s i t) :
    t = { s with fi0 := t.fi0, fi1 := t.fi1, dispatcher := t.dispatcher, mute := t.mute, peak := t.peak,
                 result := t.result, stopFlag := t.stopFlag } := by
  cases h with
  | fsetp ch mode c r m =>
    generalize (s.fi ch).fsetp c r m = v
    cases ch <;> rfl
  | fproc ch x =>
    generalize (s.fi ch).fproc x = v
    cases ch <;> rfl
  | fdup src dst =>
    generalize (s.fi src).fdup (s.fi dst) = v
    cases dst <;> rfl
  | finit ch => cases ch <;> rfl
  | _ => rfl

/-- SELECT alone writes the dispatcher, and only when no switch is pending (R75). -/
theorem dispatcher (h : CommandStep s i t) : t.dispatcher = s.dispatcher ∨
    s.dispatcher.selPhase = .idle ∧ ∃ idx e, i = .select idx ∧ t.dispatcher =
      { s.dispatcher with selPrev := s.dispatcher.active, selNew := e, selPhase := .p1 } := by
  cases h with
  | select idx e hidle => exact .inr ⟨hidle, idx, e, rfl, rfl⟩
  | fsetp ch _ _ _ _ | fproc ch _ | finit ch | fdup _ ch => exact .inl (s.setFi_dispatcher ch _)
  | _ => exact .inl rfl

/-- MUTE alone writes the mute machine (R100). -/
theorem mute (h : CommandStep s i t) : t.mute = s.mute ∨ ∃ on, i = .mute on := by
  cases h with
  | muteOn => exact .inr ⟨true, rfl⟩
  | muteOff => exact .inr ⟨false, rfl⟩
  | fsetp ch _ _ _ _ | fproc ch _ | finit ch | fdup _ ch => exact .inl (s.setFi_mute ch _)
  | _ => exact .inl rfl

/-- A GETLEVEL clears the meter it names, and no other command writes a meter (R112). -/
theorem peak (h : CommandStep s i t) : t.peak = s.peak ∨
    ∃ idx, i = .getlevel idx ∧ t.peak = s.peak.set (meterOfIndex idx) 0 := by
  cases h with
  | getlevel idx => exact .inr ⟨idx, rfl, rfl⟩
  | fsetp ch _ _ _ _ | fproc ch _ | finit ch | fdup _ ch => exact .inl (s.setFi_peak ch _)
  | _ => exact .inl rfl

/-- The direct filter commands write the instance they name and no other (R89, R92, R96, R97). -/
theorem filter (h : CommandStep s i t) (ch : Chan) : t.fi ch = s.fi ch ∨
    ((∃ m c r, i = .fsetp ch m c r) ∨ (∃ x, i = .fproc ch x) ∨ (∃ src, i = .fdup src ch) ∨ i = .finit ch) := by
  cases h with
  | fsetp ch' mode c r =>
    by_cases hch : ch = ch'
    · exact .inr (.inl ⟨mode, c, r, by rw [hch]⟩)
    · exact .inl (s.fi_setFi_of_ne ch' ch _ hch)
  | fproc ch' x =>
    by_cases hch : ch = ch'
    · exact .inr (.inr (.inl ⟨x, by rw [hch]⟩))
    · exact .inl ((State.fi_setResult ..).trans (s.fi_setFi_of_ne ch' ch _ hch))
  | fdup src dst =>
    by_cases hch : ch = dst
    · exact .inr (.inr (.inr (.inl ⟨src, by rw [hch]⟩)))
    · exact .inl (s.fi_setFi_of_ne dst ch _ hch)
  | finit ch' =>
    by_cases hch : ch = ch'
    · exact .inr (.inr (.inr (.inr (by rw [hch]))))
    · exact .inl (s.fi_setFi_of_ne ch' ch _ hch)
  | _ => exact .inl (by cases ch <;> rfl)

/-- The commands that answer a value write RESULT, and no others (R29). -/
theorem result (h : CommandStep s i t) : t.result = s.result ∨
    ((∃ ch x, i = .fproc ch x) ∨ (∃ idx, i = .getlevel idx) ∨ i = .getload ∨ ∃ r, i = .rdstat r) := by
  cases h with
  | fproc ch x => exact .inr (.inl ⟨ch, x, rfl⟩)
  | getlevel idx => exact .inr (.inr (.inl ⟨idx, rfl⟩))
  | getload => exact .inr (.inr (.inr (.inl rfl)))
  | rdstat reg => exact .inr (.inr (.inr (.inr ⟨reg, rfl⟩)))
  | fsetp ch _ _ _ _ | finit ch | fdup _ ch => exact .inl (s.setFi_result ch _)
  | _ => exact .inl rfl

/-- STOP sets the stop flag, and no other command writes it (R115). -/
theorem stopFlag (h : CommandStep s i t) : t.stopFlag = s.stopFlag ∨ i = .stop ∧ t.stopFlag = true := by
  cases h with
  | stop => exact .inr ⟨rfl, rfl⟩
  | fsetp ch _ _ _ _ | fproc ch _ | finit ch | fdup _ ch => exact .inl (s.setFi_stopFlag ch _)
  | _ => exact .inl rfl

end CommandStep

/-! ## Taking a block -/

/-- The state in which an admitted block is taken (R60). -/
def State.startBlock (p : Params) (frames : Nat) (xs : List Sample) (now : Word) (s : State) : State :=
  (s.takeBlock p frames xs now).runEffect.enterBlock

theorem blockStart_of_admitted {p : Params} {frames : Nat} {xs : List Sample} {s : State} (now : Word)
    (hidle : s.audio.phase = .idle) (hrun : s.stopFlag = false) (hfits : frames ≤ p.maxFrames)
    (hlen : xs.length = 2 * frames) : blockStart p frames xs now s = .next (s.startBlock p frames xs now) := by
  have he : blockStartEnabled p frames xs s = true := by simp [blockStartEnabled, hidle, hrun, hfits, hlen]
  simp only [blockStart, he, if_true, State.startBlock]

/-- Taking a block leaves the dispatcher, the mute machine, the control channels, RESULT and the flags. -/
theorem State.startBlock_frame (p : Params) (frames : Nat) (xs : List Sample) (now : Word) (s : State) :
    s.startBlock p frames xs now = { s with
      lm := s.lm.enter now
      audio := { s.audio with
        phase := .inBlock, frames := frames, n := 0, buf := xs, currWet := s.acq.val.get p.wetChannel
        wet := (s.startBlock p frames xs now).audio.wet }
      peak := meterInputs s.peak xs
      fi0 := (s.startBlock p frames xs now).fi0
      fi1 := (s.startBlock p frames xs now).fi1
      vcaState := (s.startBlock p frames xs now).vcaState
      delayState := (s.startBlock p frames xs now).delayState } := by
  rw [State.startBlock, State.runEffect_frame]
  rfl

/-! ## What an event can do -/

/-- What a step of an agent can do: `EventStep p s e t` says that t is s, or s with the writes of the enabled event e
(R5, R57). -/
inductive EventStep (p : Params) (s : State) : Event → State → Prop
  /-- A step that is not enabled (R120). -/
  | passedOver (e : Event) : EventStep p s e s
  | command {w : Word} {i : Instr} {t : State} (hw : decode w = i) (h : CommandStep s i t) :
    EventStep p s (.command w) t
  | blockStart {frames : Nat} {xs : List Sample} (now : Word) (hidle : s.audio.phase = .idle)
      (hrun : s.stopFlag = false) (hfits : frames ≤ p.maxFrames) (hlen : xs.length = 2 * frames) :
    EventStep p s (.blockStart frames xs now) (s.startBlock p frames xs now)
  | frame {t : State} (hphase : s.audio.phase = .inBlock) (hn : s.audio.n < s.audio.frames) (h : frame s = .next t) :
    EventStep p s .frame t
  | blockEnd (now : Word) (hphase : s.audio.phase = .inBlock) (hn : s.audio.n = s.audio.frames) :
    EventStep p s (.blockEnd now) { s with
      lm := LoadMonitor.update { s.lm with tsExit := now }
      audio := { s.audio with prevWet := s.audio.currWet, phase := .idle }
      delivered := s.audio.buf :: s.delivered }
  | acqTick (r : Reading) (hrun : s.stopFlag = false) : EventStep p s (.acqTick r) { s with acq := s.acq.tick p r }
  | forceBypass (h : s.dispatcher.selPhase = .p1) : EventStep p s .selStep (selStep1 s)
  | cleanUp (h : s.dispatcher.selPhase = .p2) : EventStep p s .selStep (s.setSelPhase .p3)
  | init (h : s.dispatcher.selPhase = .p3) : EventStep p s .selStep (selStep3 p s)
  | publish (h : s.dispatcher.selPhase = .p4) : EventStep p s .selStep (selStep4 s)
  | reset : EventStep p s .reset
      { State.reset with pending := s.pending, draws := s.draws, delivered := s.delivered }

theorem eventStep_of_performWith {p : Params} {e : Event} {s t : State} (h : performWith p e s = .next t) :
    EventStep p s e t := by
  cases e with
  | command w => exact .command rfl (commandStep_of_exec h)
  | blockStart frames xs now =>
    obtain ⟨-, h'⟩ | ⟨⟨hidle, hrun, hfits, hlen⟩, h'⟩ := blockStart_cases p frames xs now s <;> cases h'.symm.trans h
    · exact .passedOver _
    · exact .blockStart now hidle hrun hfits hlen
  | frame =>
    obtain ⟨-, rfl⟩ | ⟨hphase, hn, -⟩ := frame_cases h
    · exact .passedOver _
    · exact .frame hphase hn h
  | blockEnd now =>
    obtain ⟨-, h'⟩ | ⟨hphase, hn, h'⟩ := blockEnd_cases now s <;> cases h'.symm.trans h
    · exact .passedOver _
    · exact .blockEnd now hphase hn
  | acqTick r =>
    obtain ⟨-, h'⟩ | ⟨hrun, h'⟩ := acqTick_cases p r s <;> cases h'.symm.trans h
    · exact .passedOver _
    · exact .acqTick r hrun
  | selStep =>
    obtain ⟨-, h'⟩ | ⟨hp, h'⟩ | ⟨hp, h'⟩ | ⟨hp, h'⟩ | ⟨hp, h'⟩ := selStep_cases p s <;> cases h'.symm.trans h
    · exact .passedOver _
    · exact .forceBypass hp
    · exact .cleanUp hp
    · exact .init hp
    · exact .publish hp
  | reset => cases h; exact .reset

/-- Micro-step 3 writes the filter instances, the hidden states, the fatal flag and the dispatcher at most (R78). -/
theorem selStep3_frame (p : Params) (s : State) :
    selStep3 p s = { s with fi0 := (selStep3 p s).fi0, fi1 := (selStep3 p s).fi1, vcaState := (selStep3 p s).vcaState,
                            delayState := (selStep3 p s).delayState, fatalFlag := (selStep3 p s).fatalFlag,
                            dispatcher := (selStep3 p s).dispatcher } := by
  obtain ⟨-, e⟩ | ⟨-, e⟩ | ⟨-, -, e⟩ | ⟨-, -, e⟩ | ⟨-, e⟩ := selStep3_cases p s <;> rw [e] <;> rfl

/-- Micro-step 3 moves the switch on, or ends it where an init fails (R78). -/
theorem selStep3_dispatcher (p : Params) (s : State) :
    (selStep3 p s).dispatcher = { s.dispatcher with selPhase := .p4 } ∨
    (selStep3 p s).dispatcher = { s.dispatcher with selPhase := .idle } := by
  obtain ⟨-, e⟩ | ⟨-, e⟩ | ⟨-, -, e⟩ | ⟨-, -, e⟩ | ⟨-, e⟩ := selStep3_cases p s <;> rw [e]
  case inr.inr.inr.inr => exact .inr rfl
  all_goals exact .inl rfl

namespace EventStep

variable {p : Params} {s t : State} {e : Event}

/-! ## Who writes what -/

theorem acq (h : EventStep p s e t) (he : e ≠ .reset) : t.acq = s.acq ∨ s.stopFlag = false ∧ ∃ r, e = .acqTick r := by
  cases h with
  | acqTick r hrun => exact .inr ⟨hrun, r, rfl⟩
  | reset => exact absurd rfl he
  | command _ hc => exact .inl (by rw [hc.frame])
  | blockStart => exact .inl (by rw [s.startBlock_frame])
  | frame _ _ hf => exact .inl (by rw [frame_frame hf])
  | init => exact .inl (by rw [selStep3_frame])
  | _ => exact .inl rfl

/-- The dispatcher is written by SEL_STEP and by an accepted SELECT (R75 to R79). -/
theorem dispatcher (h : EventStep p s e t) (he : e ≠ .reset) : t.dispatcher = s.dispatcher ∨ e = .selStep ∨
    s.dispatcher.selPhase = .idle ∧ ∃ w idx new, e = .command w ∧ decode w = .select idx ∧ t.dispatcher =
      { s.dispatcher with selPrev := s.dispatcher.active, selNew := new, selPhase := .p1 } := by
  cases h with
  | reset => exact absurd rfl he
  | command hw hc =>
    obtain hsame | ⟨hidle, idx, new, rfl, ht⟩ := hc.dispatcher
    · exact .inl hsame
    · exact .inr (.inr ⟨hidle, _, idx, new, rfl, hw, ht⟩)
  | blockStart => exact .inl (by rw [s.startBlock_frame])
  | frame _ _ hf => exact .inl (by rw [frame_frame hf])
  | forceBypass | cleanUp | init | publish => exact .inr (.inl rfl)
  | _ => exact .inl rfl

/-- A micro-step never writes what the switch is from and to (R76 to R79). -/
theorem selStep_keeps_ends (h : EventStep p s .selStep t) :
    t.dispatcher.selPrev = s.dispatcher.selPrev ∧ t.dispatcher.selNew = s.dispatcher.selNew := by
  cases h with
  | init => obtain hd | hd := selStep3_dispatcher p s <;> rw [hd] <;> exact ⟨rfl, rfl⟩
  | _ => exact ⟨rfl, rfl⟩

theorem hidden (h : EventStep p s e t) (he : e ≠ .reset) : (t.vcaState = s.vcaState ∧ t.delayState = s.delayState) ∨
    e = .selStep ∨ ∃ n xs now, e = .blockStart n xs now := by
  cases h with
  | reset => exact absurd rfl he
  | command _ hc => exact .inl ⟨by rw [hc.frame], by rw [hc.frame]⟩
  | blockStart now => exact .inr (.inr ⟨_, _, now, rfl⟩)
  | frame _ _ hf => exact .inl ⟨by rw [frame_frame hf], by rw [frame_frame hf]⟩
  | forceBypass | cleanUp | init | publish => exact .inr (.inl rfl)
  | _ => exact .inl ⟨rfl, rfl⟩

/-- The mute machine is written by MUTE and by an enabled FRAME, which advances it once (R100, R103). -/
theorem mute (h : EventStep p s e t) (he : e ≠ .reset) : t.mute = s.mute ∨
    (e = .frame ∧ frameEnabled s = true ∧ t.mute = s.mute.advance) ∨ ∃ w on, e = .command w ∧ decode w = .mute on := by
  cases h with
  | reset => exact absurd rfl he
  | command hw hc =>
    obtain hsame | ⟨on, rfl⟩ := hc.mute
    · exact .inl hsame
    · exact .inr (.inr ⟨_, on, rfl, hw⟩)
  | blockStart => exact .inl (by rw [s.startBlock_frame])
  | frame hphase hn hf =>
    have hen : frameEnabled s = true := by simp [frameEnabled, hphase, hn]
    exact .inr (.inl ⟨rfl, hen, frame_mute hen hf⟩)
  | init => exact .inl (by rw [selStep3_frame])
  | _ => exact .inl rfl

theorem lm (h : EventStep p s e t) (he : e ≠ .reset) : t.lm = s.lm ∨ (∃ n xs now, e = .blockStart n xs now) ∨
    ∃ now, e = .blockEnd now := by
  cases h with
  | reset => exact absurd rfl he
  | command _ hc => exact .inl (by rw [hc.frame])
  | blockStart now => exact .inr (.inl ⟨_, _, now, rfl⟩)
  | frame _ _ hf => exact .inl (by rw [frame_frame hf])
  | blockEnd now => exact .inr (.inr ⟨now, rfl⟩)
  | init => exact .inl (by rw [selStep3_frame])
  | _ => exact .inl rfl

/-- The audio sequencer is written by its own three steps; a block is taken only while not stopped (R115). -/
theorem audio (h : EventStep p s e t) (he : e ≠ .reset) : t.audio = s.audio ∨
    (s.audio.phase = .inBlock ∧ (e = .frame ∨ ∃ now, e = .blockEnd now)) ∨
    (s.stopFlag = false ∧ ∃ n xs now, e = .blockStart n xs now) := by
  cases h with
  | reset => exact absurd rfl he
  | command _ hc => exact .inl (by rw [hc.frame])
  | blockStart now _ hrun => exact .inr (.inr ⟨hrun, _, _, now, rfl⟩)
  | frame hphase => exact .inr (.inl ⟨hphase, .inl rfl⟩)
  | blockEnd now hphase => exact .inr (.inl ⟨hphase, .inr ⟨now, rfl⟩⟩)
  | init => exact .inl (by rw [selStep3_frame])
  | _ => exact .inl rfl

theorem filter (h : EventStep p s e t) (he : e ≠ .reset) (ch : Chan) : t.fi ch = s.fi ch ∨ e = .selStep ∨
    (∃ n xs now, e = .blockStart n xs now) ∨ ∃ w, e = .command w ∧ ((∃ m c r, decode w = .fsetp ch m c r) ∨
      (∃ x, decode w = .fproc ch x) ∨ (∃ src, decode w = .fdup src ch) ∨ decode w = .finit ch) := by
  cases h with
  | reset => exact absurd rfl he
  | command hw hc =>
    subst hw
    exact (hc.filter ch).imp_right fun hw => .inr (.inr ⟨_, rfl, hw⟩)
  | blockStart now => exact .inr (.inr (.inl ⟨_, _, now, rfl⟩))
  | frame _ _ hf => exact .inl (by rw [frame_frame hf]; cases ch <;> rfl)
  | forceBypass | cleanUp | init | publish => exact .inr (.inl rfl)
  | _ => exact .inl (by cases ch <;> rfl)

theorem result (h : EventStep p s e t) (he : e ≠ .reset) : t.result = s.result ∨ ∃ w, e = .command w ∧
    ((∃ ch x, decode w = .fproc ch x) ∨ (∃ idx, decode w = .getlevel idx) ∨ decode w = .getload ∨
      ∃ r, decode w = .rdstat r) := by
  cases h with
  | reset => exact absurd rfl he
  | command hw hc =>
    subst hw
    exact hc.result.imp_right fun hw => ⟨_, rfl, hw⟩
  | blockStart => exact .inl (by rw [s.startBlock_frame])
  | frame _ _ hf => exact .inl (by rw [frame_frame hf])
  | init => exact .inl (by rw [selStep3_frame])
  | _ => exact .inl rfl

theorem stopFlag (h : EventStep p s e t) (he : e ≠ .reset) : t.stopFlag = s.stopFlag ∨
    t.stopFlag = true ∧ ∃ w, e = .command w ∧ decode w = .stop := by
  cases h with
  | reset => exact absurd rfl he
  | command hw hc => exact hc.stopFlag.imp_right fun ⟨hi, ht⟩ => ⟨ht, _, rfl, hw.trans hi⟩
  | blockStart => exact .inl (by rw [s.startBlock_frame])
  | frame _ _ hf => exact .inl (by rw [frame_frame hf])
  | init => exact .inl (by rw [selStep3_frame])
  | _ => exact .inl rfl

/-- The fatal flag is set by micro-step 3 of a switch whose opaque init fails, which ends the switch (R78, R119). -/
theorem fatalFlag (h : EventStep p s e t) (he : e ≠ .reset) : t.fatalFlag = s.fatalFlag ∨
    t.fatalFlag = true ∧ e = .selStep ∧ s.dispatcher.selPhase = .p3 ∧
      ((s.dispatcher.selNew = .vca ∧ p.vcaInitOk = false) ∨
        (s.dispatcher.selNew = .cleanDelay ∧ p.delayInitOk = false)) ∧
      t.dispatcher.selPhase = .idle := by
  cases h with
  | reset => exact absurd rfl he
  | command _ hc => exact .inl (by rw [hc.frame])
  | blockStart => exact .inl (by rw [s.startBlock_frame])
  | frame _ _ hf => exact .inl (by rw [frame_frame hf])
  | init hp3 =>
    obtain ⟨-, e⟩ | ⟨-, e⟩ | ⟨-, -, e⟩ | ⟨-, -, e⟩ | ⟨hfail, e⟩ := selStep3_cases p s <;> rw [e]
    case inr.inr.inr.inr => exact .inr ⟨rfl, rfl, hp3, hfail, rfl⟩
    all_goals exact .inl rfl
  | _ => exact .inl rfl

end EventStep

/-! ## The meters -/

/-- Every meter of `r` is at least as high as the same meter of `q`, and within R26's range if that one is. -/
def MetersRise (q r : Quad (BitVec 16)) : Prop :=
  ∀ i : Fin 4, (q.get i).toNat ≤ (r.get i).toNat ∧ ((q.get i).toNat ≤ 32768 → (r.get i).toNat ≤ 32768)

theorem MetersRise.refl (q : Quad (BitVec 16)) : MetersRise q q := fun _ => ⟨le_rfl, id⟩

theorem MetersRise.trans {q r u : Quad (BitVec 16)} (h₁ : MetersRise q r) (h₂ : MetersRise r u) : MetersRise q u :=
  fun i => ⟨(h₁ i).1.trans (h₂ i).1, (h₂ i).2 ∘ (h₁ i).2⟩

theorem metersInv_iff (q : Quad (BitVec 16)) : MetersInv q ↔ ∀ i : Fin 4, (q.get i).toNat ≤ 32768 :=
  ⟨fun ⟨h0, h1, h2, h3⟩ i => by fin_cases i <;> assumption, fun h => ⟨h 0, h 1, h 2, h 3⟩⟩

theorem MetersRise.inv {q r : Quad (BitVec 16)} (h : MetersRise q r) (hq : MetersInv q) : MetersInv r :=
  (metersInv_iff r).mpr fun i => (h i).2 ((metersInv_iff q).mp hq i)

/-- A peak-hold meter only rises (R26). -/
theorem metersRise_set_raisePeak (q : Quad (BitVec 16)) (i : Fin 4) (v : Sample) :
    MetersRise q (q.set i (raisePeak (q.get i) v)) := by
  intro j
  by_cases hj : j = i
  · subst hj
    rw [Quad.get_set_self]
    exact ⟨le_raisePeak _ v, raisePeak_le _ v⟩
  · rw [Quad.get_set_of_ne _ _ _ _ hj]
    exact ⟨le_rfl, id⟩

theorem metersRise_meterInputs (q : Quad (BitVec 16)) {xs : List Sample} {n : Nat} (h : xs.length = 2 * n) :
    MetersRise q (meterInputs q xs) := by
  obtain ⟨h2, h3, h0, h1, b0, b1⟩ := meterInputs_bounds n q xs h
  intro i
  fin_cases i
  · exact ⟨h0, b0⟩
  · exact ⟨h1, b1⟩
  · exact ⟨(congrArg BitVec.toNat h2).ge, (congrArg BitVec.toNat h2).trans_le⟩
  · exact ⟨(congrArg BitVec.toNat h3).ge, (congrArg BitVec.toNat h3).trans_le⟩

theorem metersRise_frameLane {w : Int} {g : Nat} {ch : Chan} {s t : State} (h : frameLane w g ch s = .next t) :
    MetersRise s.peak t.peak := by
  obtain ⟨_, _, -, -, rfl⟩ := frameLane_next h
  exact metersRise_set_raisePeak _ _ _

theorem metersRise_frame {s t : State} (h : frame s = .next t) : MetersRise s.peak t.peak := by
  obtain ⟨-, rfl⟩ | ⟨-, -, s1, s2, hl, hr, rfl⟩ := frame_cases h
  · exact .refl _
  · rw [State.endFrame_peak]
    exact (metersRise_frameLane hl).trans (metersRise_frameLane hr)

/-- A GETLEVEL of another meter leaves a meter (R112). -/
theorem get_set_meterOfIndex_of_ne (q : Quad (BitVec 16)) {idx : BitVec 2} {j : Fin 4} (h : idx.toNat ≠ j.val)
    (v : BitVec 16) : (q.set (meterOfIndex idx) v).get j = q.get j :=
  Quad.get_set_of_ne _ _ _ _ fun hj => h (by rw [hj, meterOfIndex_val])

/-- Metering the inputs leaves the output meters (R62). -/
theorem meterInputs_outMeter (q : Quad (BitVec 16)) {xs : List Sample} {n : Nat} (h : xs.length = 2 * n) (ch : Chan) :
    (meterInputs q xs).get (outMeter ch) = q.get (outMeter ch) := by
  obtain ⟨h2, h3, -⟩ := meterInputs_bounds n q xs h
  cases ch
  · exact h2
  · exact h3

namespace EventStep

variable {p : Params} {s t : State} {e : Event}

/-- The meters are cleared by GETLEVEL; every other step but RESET raises them or leaves them (R26). -/
theorem peak (h : EventStep p s e t) (he : e ≠ .reset) : MetersRise s.peak t.peak ∨
    ∃ w idx, e = .command w ∧ decode w = .getlevel idx ∧ t.peak = s.peak.set (meterOfIndex idx) 0 := by
  cases h with
  | reset => exact absurd rfl he
  | command hw hc =>
    obtain hsame | ⟨idx, rfl, ht⟩ := hc.peak
    · exact .inl (hsame ▸ .refl _)
    · exact .inr ⟨_, idx, rfl, hw, ht⟩
  | blockStart _ _ _ _ hlen =>
    rw [s.startBlock_frame]
    exact .inl (metersRise_meterInputs s.peak hlen)
  | frame _ _ hf => exact .inl (metersRise_frame hf)
  | init =>
    rw [selStep3_frame]
    exact .inl (.refl _)
  | _ => exact .inl (.refl _)

theorem meter (h : EventStep p s e t) (he : e ≠ .reset) (ch : Chan) :
    (t.peak.get (inMeter ch) = s.peak.get (inMeter ch) ∨ (∃ n xs now, e = .blockStart n xs now) ∨
      ∃ w idx, e = .command w ∧ decode w = .getlevel idx ∧ idx.toNat = (inMeter ch).val) ∧
    (t.peak.get (outMeter ch) = s.peak.get (outMeter ch) ∨ e = .frame ∨
      ∃ w idx, e = .command w ∧ decode w = .getlevel idx ∧ idx.toNat = (outMeter ch).val) := by
  cases h with
  | reset => exact absurd rfl he
  | command hw hc =>
    obtain hsame | ⟨idx, rfl, ht⟩ := hc.peak
    · exact ⟨.inl (by rw [hsame]), .inl (by rw [hsame])⟩
    · rw [ht]
      exact ⟨(em (idx.toNat = (inMeter ch).val)).symm.imp (get_set_meterOfIndex_of_ne _ · 0)
          fun hidx => .inr ⟨_, idx, rfl, hw, hidx⟩,
        (em (idx.toNat = (outMeter ch).val)).symm.imp (get_set_meterOfIndex_of_ne _ · 0)
          fun hidx => .inr ⟨_, idx, rfl, hw, hidx⟩⟩
  | blockStart now _ _ _ hlen =>
    rw [s.startBlock_frame]
    exact ⟨.inr (.inl ⟨_, _, now, rfl⟩), .inl (meterInputs_outMeter _ hlen ch)⟩
  | frame _ _ hf => exact ⟨.inl ((frame_leaves_others hf).2 ch), .inr (.inl rfl)⟩
  | init => exact ⟨.inl (by rw [selStep3_frame]), .inl (by rw [selStep3_frame])⟩
  | _ => exact ⟨.inl rfl, .inl rfl⟩

end EventStep

end Sys2Proof.Machine

namespace Sys2Proof.Proofs

open Sys2Proof Sys2Proof.Machine Sys2Proof.Reference

/-- Settles O55: element by element, a step either leaves it or is one of its writers. -/
theorem everyStateElementHasItsWriters : Obligations.EveryStateElementHasItsWriters := by
  unfold Obligations.EveryStateElementHasItsWriters
  intro e s t ht he
  have h := eventStep_of_performWith ht
  refine ⟨fun hne => ?_, fun hne => ?_, fun hne => ?_, fun hne => ?_, fun hne => ?_, fun hne => ?_, fun ch => ⟨?_, ?_⟩,
    fun hne => ?_, fun hne => ?_, fun ch => ?_, fun hne => ?_, fun hne => ?_, fun hne => ?_⟩
  · exact ((h.acq he).resolve_left hne).2
  · obtain hd | hsel | ⟨-, _, _, _, -, -, hd⟩ := h.dispatcher he
    · exact absurd (by rw [hd]) hne
    · exact hsel
    · exact absurd (by rw [hd]) hne
  · obtain hd | hsel | ⟨-, w, idx, _, hw, hi, -⟩ := h.dispatcher he
    · exact absurd (by rw [hd]) hne
    · exact .inl hsel
    · exact .inr ⟨w, idx, hw, hi⟩
  · obtain hd | rfl | ⟨-, w, idx, _, hw, hi, -⟩ := h.dispatcher he
    · rw [hd] at hne
      exact absurd hne (by simp)
    · obtain ⟨hprev, hnew⟩ := h.selStep_keeps_ends
      exact absurd hne (by simp [hprev, hnew])
    · exact ⟨w, idx, hw, hi⟩
  · exact (h.hidden he).resolve_left fun ⟨hvca, hdelay⟩ => hne.elim (absurd hvca) (absurd hdelay)
  · exact ((h.mute he).resolve_left hne).imp_left And.left
  · exact (h.meter he ch).1.resolve_left
  · exact (h.meter he ch).2.resolve_left
  · exact (h.lm he).resolve_left hne
  · obtain ⟨-, hf | hb⟩ | ⟨-, hb⟩ := (h.audio he).resolve_left hne
    · exact .inl hf
    · exact .inr (.inr hb)
    · exact .inr (.inl hb)
  · exact (h.filter he ch).resolve_left
  · exact (h.result he).resolve_left hne
  · exact ((h.stopFlag he).resolve_left hne).2
  · exact ((h.fatalFlag he).resolve_left hne).2.1

/-- Settles O54: RESULT's writers are the commands that answer a value. -/
theorem onlyReturningCommandsWriteResult : Obligations.OnlyReturningCommandsWriteResult := by
  unfold Obligations.OnlyReturningCommandsWriteResult
  intro e s t ht hne
  by_cases he : e = .reset
  · exact .inl he
  · exact .inr (((eventStep_of_performWith ht).result he).resolve_left hne)

/-- Settles O56: the fatal flag changes to set only, and by a failed init only. -/
theorem fatalFlagIsStickyAndSetByAFailedInitAlone : Obligations.FatalFlagIsStickyAndSetByAFailedInitAlone := by
  unfold Obligations.FatalFlagIsStickyAndSetByAFailedInitAlone
  intro p e s t ht he
  obtain hsame | ⟨hset, hfail⟩ := (eventStep_of_performWith ht).fatalFlag he
  · exact ⟨hsame.trans, fun hclear hset => absurd (hset.symm.trans (hsame.trans hclear)) (by decide)⟩
  · exact ⟨fun _ => hset, fun _ _ => hfail⟩

/-- Settles O57: a GETLEVEL of another meter leaves this one, and all else raises it. -/
theorem metersOnlyRiseUntilReadAndCleared : Obligations.MetersOnlyRiseUntilReadAndCleared := by
  unfold Obligations.MetersOnlyRiseUntilReadAndCleared
  intro e s t i ht he hother
  obtain hrise | ⟨w, idx, hw, hi, hpeak⟩ := (eventStep_of_performWith ht).peak he
  · exact (hrise i).1
  · rw [hpeak, get_set_meterOfIndex_of_ne _ (hother w idx hw hi)]

/-- Settles O45: the acquisition registers and an idle sequencer are written only while not stopped. -/
theorem stopHoldsUntilReset : Obligations.StopHoldsUntilReset := by
  unfold Obligations.StopHoldsUntilReset
  refine ⟨fun s => rfl, fun p frames xs now r s hstop => ⟨?_, ?_⟩, fun e s t hstop he ht => ?_⟩
  · exact Bool.eq_false_iff.mpr fun hen => by simp [Event.enabled_blockStart_iff, hstop] at hen
  · exact Bool.eq_false_iff.mpr fun hen => by simp [Event.enabled_acqTick_iff, hstop] at hen
  · have h := eventStep_of_performWith ht
    refine ⟨?_, ?_, fun hidle => ?_⟩
    · obtain hsame | ⟨hset, -⟩ := h.stopFlag he
      · exact hsame.trans hstop
      · exact hset
    · exact (h.acq he).resolve_right fun ⟨hrun, _⟩ => by simp [hstop] at hrun
    · refine (h.audio he).resolve_right ?_
      rintro (⟨hin, -⟩ | ⟨hrun, -⟩)
      · simp [hidle] at hin
      · simp [hstop] at hrun

/-- Settles O49: command by command. -/
theorem everyCommandCompletesInEveryState : Obligations.EveryCommandCompletesInEveryState := by
  unfold Obligations.EveryCommandCompletesInEveryState
  intro i s
  obtain ⟨t, ht, -⟩ := exec_completes i s
  exact ⟨t, ht⟩

end Sys2Proof.Proofs
end

section
/-!
PROOFS. The invariant of the machine (R18, R23, R25, R26, R80): every command and every event keeps it, and in a state
that meets it no step stops. With it: when each step is enabled (R120), the switch protocol's steps (R80), and the step
as the oldest pending event (R5, R46).
-/

namespace Sys2Proof.Machine

open Sys2Proof.Reference

/-! ## The invariant of the filter instances -/

theorem State.Inv.fi {s : State} (hs : s.Inv) (ch : Chan) : (s.fi ch).Inv := by
  obtain ⟨h0, h1, -⟩ := hs
  cases ch
  · exact h0
  · exact h1

theorem State.setFi_inv {s : State} (hs : s.Inv) (ch : Chan) {v : Filter} (hv : v.Inv) : (s.setFi ch v).Inv := by
  obtain ⟨h0, h1, hrest⟩ := hs
  cases ch
  · exact ⟨hv, h1, hrest⟩
  · exact ⟨h0, hv, hrest⟩

/-- An effect keeps b4 of both instances in range (R18, R67). -/
theorem State.runEffect_fi_inv {s : State} {n : Nat} (hbuf : s.audio.buf.length = 2 * n) (h0 : s.fi0.Inv)
    (h1 : s.fi1.Inv) : s.runEffect.fi0.Inv ∧ s.runEffect.fi1.Inv := by
  obtain ⟨-, e⟩ | ⟨-, e⟩ | ⟨-, e⟩ | ⟨m, -, e⟩ := s.runEffect_cases <;> rw [e]
  case inr.inr.inr =>
    have hf0 := Filter.fsetp_inv h0 (shape s.acq.val.c0) s.acq.val.c1 m
    exact filterBlock_inv n _ _ _ hbuf hf0 (Filter.fdup_inv h1 _)
  all_goals exact ⟨h0, h1⟩

/-! ## Every command and every event keeps the invariant -/

theorem CommandStep.inv {s t : State} {i : Instr} (h : CommandStep s i t) (hs : s.Inv) : t.Inv := by
  cases h with
  | ignored | getload | rdstat | stop => exact hs
  | fsetp ch _ c r m => exact State.setFi_inv hs ch (Filter.fsetp_inv (hs.fi ch) c r m)
  | fproc ch x => exact State.setFi_inv hs ch (Filter.fproc_inv (hs.fi ch) x)
  | fdup src dst => exact State.setFi_inv hs dst (Filter.fdup_inv (hs.fi dst) (s.fi src))
  | finit ch => exact State.setFi_inv hs ch Filter.cleared_inv
  | select =>
    obtain ⟨h0, h1, hmute, -, hrest⟩ := hs
    exact ⟨h0, h1, hmute, by simp [Dispatcher.Inv], hrest⟩
  | muteOn | muteOff =>
    obtain ⟨h0, h1, -, hrest⟩ := hs
    exact ⟨h0, h1, by simp [Mute.Inv], hrest⟩
  | getlevel idx =>
    obtain ⟨h0, h1, hmute, hdisp, haudio, hpeak⟩ := hs
    refine ⟨h0, h1, hmute, hdisp, haudio, (metersInv_iff _).mpr fun j => ?_⟩
    by_cases hj : idx.toNat = j.val
    · obtain rfl : meterOfIndex idx = j := Fin.ext ((meterOfIndex_val idx).trans hj)
      rw [State.setPeak_peak, Quad.get_set_self]
      decide
    · rw [State.setPeak_peak, get_set_meterOfIndex_of_ne _ hj]
      exact (metersInv_iff _).mp hpeak j

theorem State.startBlock_inv {p : Params} {frames : Nat} {xs : List Sample} (now : Word) {s : State} (hs : s.Inv)
    (hlen : xs.length = 2 * frames) : (s.startBlock p frames xs now).Inv := by
  obtain ⟨h0, h1, hmute, hdisp, -, hpeak⟩ := hs
  obtain ⟨hfi0, hfi1⟩ := State.runEffect_fi_inv (s := s.takeBlock p frames xs now) hlen h0 h1
  have hwet : (s.startBlock p frames xs now).audio.wet.length = 2 * frames := State.runEffect_wet_length _ frames hlen
  rw [s.startBlock_frame]
  exact ⟨hfi0, hfi1, hmute, hdisp, ⟨Nat.zero_le _, hlen, hwet, nofun⟩, (metersRise_meterInputs _ hlen).inv hpeak⟩

/-- Micro-step 3 keeps the invariant: it clears the instances or leaves them, and Bypass stays active (R78). -/
theorem selStep3_inv (p : Params) {s : State} (hs : s.Inv) (h : s.dispatcher.selPhase = .p3) : (selStep3 p s).Inv := by
  obtain ⟨h0, h1, hmute, ⟨-, -, hp3, -⟩, haudio, hpeak⟩ := hs
  have hbypass := hp3 h
  have hdisp : (selStep3 p s).dispatcher.Inv := by
    obtain hd | hd := selStep3_dispatcher p s <;> rw [hd] <;> simp [Dispatcher.Inv, hbypass]
  have hfi : (selStep3 p s).fi0.Inv ∧ (selStep3 p s).fi1.Inv := by
    obtain ⟨-, e⟩ | ⟨-, e⟩ | ⟨-, -, e⟩ | ⟨-, -, e⟩ | ⟨-, e⟩ := selStep3_cases p s <;> rw [e]
    case inr.inl => exact ⟨Filter.cleared_inv, Filter.cleared_inv⟩
    all_goals exact ⟨h0, h1⟩
  rw [selStep3_frame]
  exact ⟨hfi.1, hfi.2, hmute, hdisp, haudio, hpeak⟩

theorem frame_inv {s t : State} (hs : s.Inv) (hphase : s.audio.phase = .inBlock) (hn : s.audio.n < s.audio.frames)
    (h : frame s = .next t) : t.Inv := by
  obtain ⟨h0, h1, hmute, hdisp, ⟨-, hbuf, hwet, -⟩, hpeak⟩ := hs
  have hen : frameEnabled s = true := by simp [frameEnabled, hphase, hn]
  obtain ⟨t', ht', haudio, hlen⟩ := frame_completes hphase hn hbuf hwet
  cases ht'.symm.trans h
  have hmute' : t.mute.Inv := frame_mute hen h ▸ Mute.advance_inv hmute
  have haudio' : t.audio.Inv := by
    rw [haudio]
    exact ⟨hn, hlen, hwet, fun hidle => by simp [hphase] at hidle⟩
  have hpeak' := (metersRise_frame h).inv hpeak
  rw [frame_frame h]
  exact ⟨h0, h1, hmute', hdisp, by rwa [haudio] at haudio' ⊢, hpeak'⟩

theorem State.reset_inv : State.reset.Inv := by decide

theorem EventStep.inv {p : Params} {e : Event} {s t : State} (h : EventStep p s e t) (hs : s.Inv) : t.Inv := by
  cases h with
  | passedOver | acqTick => exact hs
  | command _ hc => exact hc.inv hs
  | blockStart now _ _ _ hlen => exact State.startBlock_inv now hs hlen
  | frame hphase hn hf => exact frame_inv hs hphase hn hf
  | blockEnd now hphase hn =>
    obtain ⟨h0, h1, hmute, hdisp, ⟨hle, hbuf, hwet, -⟩, hpeak⟩ := hs
    exact ⟨h0, h1, hmute, hdisp, ⟨hle, hbuf, hwet, fun _ => hn⟩, hpeak⟩
  | forceBypass =>
    obtain ⟨h0, h1, hmute, -, hrest⟩ := hs
    exact ⟨h0, h1, hmute, by simp [selStep1, Dispatcher.Inv], hrest⟩
  | cleanUp hp2 =>
    obtain ⟨h0, h1, hmute, ⟨-, hbypass, -⟩, hrest⟩ := hs
    exact ⟨h0, h1, hmute, by simp [Dispatcher.Inv, hbypass hp2], hrest⟩
  | init hp3 => exact selStep3_inv p hs hp3
  | publish =>
    obtain ⟨h0, h1, hmute, -, hrest⟩ := hs
    exact ⟨h0, h1, hmute, by simp [selStep4, Dispatcher.Inv], hrest⟩
  | reset => exact State.reset_inv

theorem performWith_inv {p : Params} {e : Event} {s t : State} (hs : s.Inv) (h : performWith p e s = .next t) : t.Inv :=
  (eventStep_of_performWith h).inv hs

/-! ## No event stops the machine -/

theorem performWith_completes (p : Params) (e : Event) {s : State} (hs : s.Inv) : ∃ t, performWith p e s = .next t := by
  cases e with
  | command w =>
    obtain ⟨t, ht, -⟩ := exec_completes (decode w) s
    exact ⟨t, ht⟩
  | blockStart frames xs now => obtain ⟨-, h⟩ | ⟨-, h⟩ := blockStart_cases p frames xs now s <;> exact ⟨_, h⟩
  | frame =>
    obtain ⟨-, -, -, -, ⟨-, hbuf, hwet, -⟩, -⟩ := hs
    by_cases hen : s.audio.phase = .inBlock ∧ s.audio.n < s.audio.frames
    · obtain ⟨t, ht, -⟩ := frame_completes hen.1 hen.2 hbuf hwet
      exact ⟨t, ht⟩
    · exact ⟨s, by simp [performWith, frame, frameEnabled, hen]⟩
  | blockEnd now => obtain ⟨-, h⟩ | ⟨-, -, h⟩ := blockEnd_cases now s <;> exact ⟨_, h⟩
  | acqTick r => obtain ⟨-, h⟩ | ⟨-, h⟩ := acqTick_cases p r s <;> exact ⟨_, h⟩
  | selStep =>
    obtain ⟨-, h⟩ | ⟨-, h⟩ | ⟨-, h⟩ | ⟨-, h⟩ | ⟨-, h⟩ := selStep_cases p s <;> exact ⟨_, h⟩
  | reset => exact ⟨_, performWith_reset p s⟩

/-! ## When the audio sequencer's own steps are enabled -/

namespace Event

variable {p : Params} {s : State}

theorem enabled_frame_iff : enabled p .frame s = true ↔ s.audio.phase = .inBlock ∧ s.audio.n < s.audio.frames := by
  simp only [enabled, frameEnabled, decide_eq_true_eq]

theorem enabled_blockEnd_iff {now : Word} :
    enabled p (.blockEnd now) s = true ↔ s.audio.phase = .inBlock ∧ s.audio.n = s.audio.frames := by
  simp only [enabled, blockEndEnabled, decide_eq_true_eq]

end Event

/-- A step that is not enabled changes nothing (R120). -/
theorem performWith_of_not_enabled {p : Params} {e : Event} {s : State} (h : ¬ e.enabled p s = true) :
    performWith p e s = .next s := by
  cases e with
  | command | reset => exact absurd rfl h
  | blockStart frames xs now =>
    obtain ⟨-, hsame⟩ | ⟨hen, -⟩ := blockStart_cases p frames xs now s
    · exact hsame
    · exact absurd (Event.enabled_blockStart_iff.mpr hen) h
  | frame => exact if_neg h
  | blockEnd now => exact if_neg h
  | acqTick r =>
    obtain ⟨-, hsame⟩ | ⟨hrun, -⟩ := acqTick_cases p r s
    · exact hsame
    · exact absurd (Event.enabled_acqTick_iff.mpr hrun) h
  | selStep =>
    have hidle : s.dispatcher.selPhase = .idle := not_not.mp (mt Event.enabled_selStep_iff.mpr h)
    simp only [performWith, selStep, hidle]

/-- A micro-step leaves the active effect, forces Bypass, or (micro-step 4) publishes the new effect (R76 to R79). -/
theorem EventStep.selStep_active {p : Params} {s t : State} (h : EventStep p s .selStep t) :
    t.dispatcher.active = s.dispatcher.active ∨ t.dispatcher.active = .bypass ∨
      s.dispatcher.selPhase = .p4 ∧ t.dispatcher.active = s.dispatcher.selNew := by
  cases h with
  | passedOver | cleanUp => exact .inl rfl
  | forceBypass => exact .inr (.inl rfl)
  | init => obtain hd | hd := selStep3_dispatcher p s <;> rw [hd] <;> exact .inl rfl
  | publish hp4 => exact .inr (.inr ⟨hp4, rfl⟩)

/-! ## Every step -/

/-- What holds of the machine whatever is pending and however often it drew, and is kept by every event, is kept by
every step. -/
theorem step_keeps {I : State → Prop} (hown : ∀ s q d, I s → I { s with pending := q, draws := d })
    (hevent : ∀ e s t, I s → perform e s = .next t → I t) {s t : State} (hs : I s) (h : step s = .next t) : I t := by
  obtain ⟨e, s0, hstep, hs0⟩ := step_cases s
  rw [hstep] at h
  refine hevent e s0 t ?_ h
  obtain ⟨rest, -, rfl⟩ | ⟨-, -, rfl⟩ := hs0
  · exact hown s rest s.draws hs
  · exact hown s s.pending (s.draws + 1) hs

theorem State.inv_own {s : State} (hs : s.Inv) (q : List Event) (d : Nat) :
    State.Inv { s with pending := q, draws := d } := hs

/-- No event lets a block of more frames in than the parameters admit (R23, R60). -/
theorem EventStep.frames_le {p : Params} {e : Event} {s t : State} (h : EventStep p s e t)
    (hs : s.audio.frames ≤ p.maxFrames) : t.audio.frames ≤ p.maxFrames := by
  cases h with
  | blockStart _ _ _ hfits =>
    rw [s.startBlock_frame]
    exact hfits
  | command _ hc => rwa [hc.frame]
  | frame _ _ hf => rwa [frame_frame hf]
  | init => rwa [selStep3_frame]
  | reset => exact Nat.zero_le _
  | _ => exact hs

end Sys2Proof.Machine

namespace Sys2Proof.Proofs

open Sys2Proof Sys2Proof.Machine Sys2Proof.Reference

/-- Settles O51: event by event. -/
theorem everyStepKeepsTheInvariant : Obligations.EveryStepKeepsTheInvariant := by
  unfold Obligations.EveryStepKeepsTheInvariant
  exact fun s t => step_keeps (fun s q d hs => s.inv_own hs q d) fun e s t => performWith_inv

/-- Settles O52: field by field of the reset state. -/
theorem resetMeetsTheInvariant : Obligations.ResetMeetsTheInvariant := by
  unfold Obligations.ResetMeetsTheInvariant
  exact State.reset_inv

/-- Settles O50: the invariant gives FRAME the elements it reads, and every other event completes in every state. -/
theorem noStepOfAnyAgentStops : Obligations.NoStepOfAnyAgentStops := by
  unfold Obligations.NoStepOfAnyAgentStops
  intro s hs
  obtain ⟨e, s0, hstep, ⟨rest, -, rfl⟩ | ⟨-, -, rfl⟩⟩ := step_cases s <;> rw [hstep]
  · exact performWith_completes Config.params e (s.inv_own hs rest s.draws)
  · exact performWith_completes Config.params e (s.inv_own hs s.pending (s.draws + 1))

/-- Settles O53: only BLOCK_START sets the frame count, and it admits no more than MAX_FRAMES. -/
theorem everyStepKeepsBlocksWithinMaxFrames : Obligations.EveryStepKeepsBlocksWithinMaxFrames := by
  unfold Obligations.EveryStepKeepsBlocksWithinMaxFrames
  exact ⟨Nat.zero_le _, fun s t => step_keeps (I := State.BlockFits) (fun _ _ _ hs => hs)
    fun e s t hs h => (eventStep_of_performWith h).frames_le hs⟩

/-- Settles O48: a step that is not enabled changes nothing, and each listed case is one. -/
theorem stepThatIsNotEnabledChangesNothing : Obligations.StepThatIsNotEnabledChangesNothing := by
  unfold Obligations.StepThatIsNotEnabledChangesNothing
  refine fun p s => ⟨fun frames xs now => ⟨Event.enabled_blockStart_iff, fun h => ?_⟩,
    ⟨Event.enabled_frame_iff, fun h => ?_⟩, fun now => ⟨Event.enabled_blockEnd_iff, fun h => ?_⟩,
    fun r => ⟨Event.enabled_acqTick_iff, fun h => ?_⟩, ⟨Event.enabled_selStep_iff, fun h => ?_⟩, fun w => rfl, rfl⟩
  all_goals apply performWith_of_not_enabled
  · rw [Event.enabled_blockStart_iff]
    rintro ⟨hidle, hrun, hfits, hlen⟩
    simp [hidle, hrun, hlen, hfits.not_gt] at h
  · rw [Event.enabled_frame_iff]
    rintro ⟨hin, hn⟩
    simp [hin, hn.not_ge] at h
  · rw [Event.enabled_blockEnd_iff]
    rintro ⟨hin, hn⟩
    simp [hin, hn] at h
  · simp [Event.enabled_acqTick_iff, h]
  · simp [Event.enabled_selStep_iff, h]

/-- Settles O19: only a micro-step writes the dispatcher of a pending switch, and the invariant says what is active. -/
theorem pendingSwitchShowsOldBypassOrNew : Obligations.PendingSwitchShowsOldBypassOrNew := by
  unfold Obligations.PendingSwitchShowsOldBypassOrNew
  intro e s t hs hpending he ht
  obtain ⟨-, -, -, ⟨hp1, hp2, hp3, hp4⟩, -⟩ := hs
  have hactive : s.dispatcher.active = s.dispatcher.selPrev ∨ s.dispatcher.active = .bypass := by
    cases hp : s.dispatcher.selPhase with
    | idle => exact absurd hp hpending
    | p1 => exact .inl (hp1 hp)
    | p2 => exact .inr (hp2 hp)
    | p3 => exact .inr (hp3 hp)
    | p4 => exact .inr (hp4 hp)
  have h := eventStep_of_performWith ht
  obtain hsame | rfl | ⟨hidle, -⟩ := h.dispatcher he
  · rw [hsame]
    exact ⟨hactive.imp_right .inl, fun hne => absurd rfl hne, fun _ => ⟨rfl, rfl⟩⟩
  · refine ⟨?_, ?_, fun _ => h.selStep_keeps_ends⟩ <;>
      obtain hkept | hbypass | ⟨hphase, hnew⟩ := h.selStep_active
    · rw [hkept]
      exact hactive.imp_right .inl
    · exact .inr (.inl hbypass)
    · exact .inr (.inr hnew)
    · exact absurd hkept
    · exact fun _ => .inl hbypass
    · exact fun _ => .inr ⟨rfl, hphase⟩
  · exact absurd hidle hpending

/-- Settles O1: the oldest pending event is the command. -/
theorem stepRunsTheDecodedCommand : Obligations.StepRunsTheDecodedCommand := by
  unfold Obligations.StepRunsTheDecodedCommand
  exact fun s w rest => step_of_pending

/-- Settles O2: the two ways a step is chosen. -/
theorem stepTakesThePendingOrAFreelyChosenEvent : Obligations.StepTakesThePendingOrAFreelyChosenEvent := by
  unfold Obligations.StepTakesThePendingOrAFreelyChosenEvent
  exact ⟨fun s e rest => step_of_pending, fun s => step_of_nothing_pending⟩

/-- Settles O3: a 32-bit word is kept whole by the table's word. -/
theorem fetchedWordIsTheNextCommand : Obligations.FetchedWordIsTheNextCommand := by
  unfold Obligations.FetchedWordIsTheNextCommand
  intro s w
  have hword : tableWord 32 w.toNat = w := by
    rw [tableWord, Nat.mod_eq_of_lt w.isLt, BitVec.ofNat_toNat, BitVec.setWidth_eq]
  rw [State.withFetchWord, hword]
  exact step_of_pending (s := s.offerCommand w) rfl

end Sys2Proof.Proofs
end

section
/-!
PROOFS. Runs of `step` over a list of pending events (R5, R40), and what they reach: the switch (R75 to R79) and the end
of a block (R71). Progress of weakly fair runs (R6): a pending switch (R81) and a block in progress (R115).
-/

namespace Sys2Proof.Machine

open Sys2Proof.Reference

/-! ## Runs over pending events -/

/-- `k` steps of the machine. -/
def runSteps (k : Nat) (s : State) : StepOutcome := core.run k s

theorem runSteps_succ {s t : State} (h : step s = .next t) (k : Nat) : runSteps (k + 1) s = runSteps k t := by
  have hstep : core.step s = .next t := h
  simp only [runSteps, Host.Core.run, hstep]
  rfl

theorem runSteps_zero (s : State) : runSteps 0 s = .next s := rfl

/-- A run takes the oldest pending event first. -/
theorem runSteps_of_pending {s t : State} {e : Event} {rest : List Event} (hp : s.pending = e :: rest)
    (h : perform e { s with pending := rest } = .next t) (k : Nat) : runSteps (k + 1) s = runSteps k t :=
  runSteps_succ ((step_of_pending hp).trans h) k

/-- The k events of a run of the agents from the j-th on, pending, take the machine from the run's j-th state to its
j + k-th. -/
theorem IsRun.runSteps_pending {offers : Nat → List Event} {events : Nat → Event} {states : Nat → State}
    (r : IsRun Config.params offers events states) (rest : List Event) (k : Nat) : ∀ j : Nat,
    runSteps k { states j with pending := (List.range' j k).map events ++ rest } =
      .next { states (j + k) with pending := rest } := by
  induction k with
  | zero => exact fun j => rfl
  | succ k ih =>
    intro j
    have hstep := performWith_pending ((List.range' (j + 1) k).map events ++ rest) (r.steps j)
    refine (runSteps_of_pending (s := { states j with pending := events j :: _ }) rfl hstep k).trans ?_
    rw [ih, Nat.add_right_comm, Nat.add_assoc]

/-! ## A block runs to its end -/

/-- The pending FRAMEs of a block in progress are taken one by one: Buf keeps its length, and but for Buf, n, the mute
machine and the meters the state is as before. -/
theorem runSteps_frames (m : Nat) : ∀ {s : State} {rest : List Event}, s.audio.phase = .inBlock →
    s.audio.buf.length = 2 * s.audio.frames → s.audio.wet.length = 2 * s.audio.frames →
    s.audio.n + m = s.audio.frames → s.pending = List.replicate m .frame ++ rest →
    ∃ t, (∀ k, runSteps (m + k) s = runSteps k t) ∧ t.audio.buf.length = 2 * s.audio.frames ∧
      t = { s with audio := { s.audio with buf := t.audio.buf, n := s.audio.frames }, mute := t.mute, peak := t.peak,
                   pending := rest } := by
  induction m with
  | zero =>
    intro s rest _ hbuf _ hn hp
    refine ⟨s, fun k => by rw [Nat.zero_add], hbuf, ?_⟩
    rw [← hn, ← show s.pending = rest from hp]
    rfl
  | succ m ih =>
    intro s rest hphase hbuf hwet hn hp
    have hlt : s.audio.n < s.audio.frames := by omega
    obtain ⟨t, ht, haudio, hlen⟩ := frame_completes (s := { s with pending := List.replicate m .frame ++ rest })
      hphase hlt hbuf hwet
    have hframes : t.audio.frames = s.audio.frames := by rw [haudio]
    have hnext : t.audio.n = s.audio.n + 1 := by rw [haudio]
    have hframe := frame_frame ht
    obtain ⟨u, hrun, hulen, hu⟩ := ih (s := t) (rest := rest) (by rw [haudio]; exact hphase) (by rw [hframes, hlen])
      (by rw [haudio]; exact hwet) (by omega) (by rw [hframe])
    refine ⟨u, fun k => ?_, by rw [hulen, hframes], hu.trans (by rw [hframe])⟩
    rw [Nat.add_right_comm, runSteps_of_pending hp ht, hrun]

/-! ## The switch, micro-step by micro-step -/

/-- A pending command is executed (R46). -/
theorem runSteps_command {s t : State} {i : Instr} {rest : List Event} (hp : s.pending = .command (encode i) :: rest)
    (h : exec i { s with pending := rest } = .next t) (k : Nat) : runSteps (k + 1) s = runSteps k t :=
  runSteps_of_pending hp ((congrArg (exec · _) (decode_encode i)).trans h) k

/-- SELECT and two micro-steps: Bypass is active and the requested effect is about to be initialised (R75 to R77). -/
theorem runSteps_select_to_p3 {s : State} {idx : BitVec 3} {e : Effect} {rest : List Event}
    (he : effectOfIndex idx = some e) (hidle : s.dispatcher.selPhase = .idle)
    (hp : s.pending = .command (encode (.select idx)) :: .selStep :: .selStep :: rest) (k : Nat) :
    runSteps (k + 3) s = runSteps k { s with
      pending := rest
      dispatcher := { active := .bypass, selPhase := .p3, selPrev := s.dispatcher.active, selNew := e } } := by
  rw [runSteps_command hp (execSelect_accepts he hidle), runSteps_of_pending (e := .selStep) rfl (selStep_of_p1 rfl),
    runSteps_of_pending (e := .selStep) rfl (selStep_of_p2 rfl)]
  rfl

/-- The third micro-step is taken. -/
theorem runSteps_init {s : State} {rest : List Event} (h : s.dispatcher.selPhase = .p3)
    (hp : s.pending = .selStep :: rest) (k : Nat) :
    runSteps (k + 1) s = runSteps k (selStep3 Config.params { s with pending := rest }) :=
  runSteps_of_pending hp (selStep_of_p3 h) k

/-- The fourth micro-step is the last. -/
theorem runSteps_publish {s : State} {rest : List Event} (h : s.dispatcher.selPhase = .p4)
    (hp : s.pending = .selStep :: rest) : runSteps 1 s = .next (selStep4 { s with pending := rest }) :=
  runSteps_of_pending hp (selStep_of_p4 h) 0

/-- A micro-step offered to an idle dispatcher is passed over (R81). -/
theorem runSteps_selStep_of_idle {s : State} {rest : List Event} (h : s.dispatcher.selPhase = .idle)
    (hp : s.pending = .selStep :: rest) : runSteps 1 s = .next { s with pending := rest } :=
  runSteps_of_pending hp (performWith_of_not_enabled fun hen => Event.enabled_selStep_iff.mp hen h) 0

/-! ## Progress of weakly fair runs -/

section Progress

variable {p : Params} {offers : Nat → List Event} {events : Nat → Event} {states : Nat → State}

/-- While the goal is not reached, a measure that no step raises does not rise. -/
theorem IsRun.reaches_or_measure_le (r : IsRun p offers events states) {goal : State → Prop} {μ : State → Nat}
    (hmono : ∀ e s t, performWith p e s = .next t → ¬ goal s → goal t ∨ μ t ≤ μ s) (k d : Nat) :
    (∃ j, k ≤ j ∧ goal (states j)) ∨ μ (states (k + d)) ≤ μ (states k) := by
  induction d with
  | zero => exact .inr le_rfl
  | succ d ih =>
    obtain hreach | hle := ih
    · exact .inl hreach
    · by_cases hgoal : goal (states (k + d))
      · exact .inl ⟨k + d, k.le_add_right d, hgoal⟩
      · obtain hreach | hstep := hmono _ _ _ (r.steps (k + d)) hgoal
        · exact .inl ⟨k + d + 1, by omega, hreach⟩
        · exact .inr (hstep.trans hle)

/-- A weakly fair run reaches a goal that an agent works towards: the agent has a step until the goal is reached, each
of its steps lowers a measure, and no other step raises it. -/
theorem FairRun.reaches_of_measure (r : FairRun p offers events states) (a : Agent) {goal : State → Prop}
    {μ : State → Nat} (hhas : ∀ k, ¬ goal (states k) → a.HasStep p (offers k) (states k))
    (hmono : ∀ e s t, performWith p e s = .next t → ¬ goal s → goal t ∨ μ t ≤ μ s)
    (hdec : ∀ e s t, performWith p e s = .next t → ¬ goal s → e.agent = some a → e.enabled p s = true →
      goal t ∨ μ t < μ s) (k : Nat) : ∃ j, k ≤ j ∧ goal (states j) := by
  induction hm : μ (states k) using Nat.strong_induction_on generalizing k with
  | _ m ih =>
    subst hm
    obtain ⟨j, hkj, hgoal | ⟨hagent, hen⟩⟩ := r.reaches_or_takes a goal k fun j _ => hhas j
    · exact ⟨j, hkj, hgoal⟩
    · obtain ⟨d, rfl⟩ := Nat.exists_eq_add_of_le hkj
      obtain hreach | hle := r.toIsRun.reaches_or_measure_le hmono k d
      · exact hreach
      · by_cases hgoal : goal (states (k + d))
        · exact ⟨k + d, hkj, hgoal⟩
        · obtain hreach | hlt := hdec _ _ _ (r.steps (k + d)) hgoal hagent hen
          · exact ⟨k + d + 1, by omega, hreach⟩
          · obtain ⟨j, hj, hgoal⟩ := ih _ (hlt.trans_le hle) (k + d + 1) rfl
            exact ⟨j, by omega, hgoal⟩

end Progress

/-! ## What the dispatcher and the audio sequencer work off -/

/-- How many micro-steps a switch still has to take. -/
def SelPhase.stepsLeft : SelPhase → Nat
  | .idle => 0
  | .p1 => 4
  | .p2 => 3
  | .p3 => 2
  | .p4 => 1

/-- A micro-step of a pending switch brings it nearer to its end (R76 to R79). -/
theorem selStep_stepsLeft_lt {p : Params} {s t : State} (ht : performWith p .selStep s = .next t)
    (hpending : s.dispatcher.selPhase ≠ .idle) :
    t.dispatcher.selPhase.stepsLeft < s.dispatcher.selPhase.stepsLeft := by
  obtain ⟨h, -⟩ | ⟨h, e⟩ | ⟨h, e⟩ | ⟨h, e⟩ | ⟨h, e⟩ := selStep_cases p s
  · exact absurd h hpending
  all_goals cases e.symm.trans ht; rw [h]
  case inr.inr.inr.inl => obtain hd | hd := selStep3_dispatcher p s <;> rw [hd] <;> simp [SelPhase.stepsLeft]
  all_goals simp [selStep1, selStep4, SelPhase.stepsLeft]

/-- Nothing lengthens a pending switch: a further SELECT is ignored (R75). -/
theorem stepsLeft_le {p : Params} {e : Event} {s t : State} (ht : performWith p e s = .next t)
    (hpending : s.dispatcher.selPhase ≠ .idle) :
    t.dispatcher.selPhase = .idle ∨ t.dispatcher.selPhase.stepsLeft ≤ s.dispatcher.selPhase.stepsLeft := by
  by_cases he : e = .reset
  · subst he
    cases ht
    exact .inl rfl
  · obtain hsame | rfl | ⟨hidle, -⟩ := (eventStep_of_performWith ht).dispatcher he
    · exact .inr (by rw [hsame])
    · exact .inr (selStep_stepsLeft_lt ht hpending).le
    · exact absurd hidle hpending

/-- An enabled FRAME that completes moves n on and writes Buf, and leaves the rest of the sequencer (R70). -/
theorem frame_audio {s t : State} (hen : frameEnabled s = true) (h : frame s = .next t) :
    t.audio = { s.audio with buf := t.audio.buf, n := s.audio.n + 1 } := by
  obtain ⟨hoff, -⟩ | ⟨-, -, s1, s2, hl, hr, rfl⟩ := frame_cases h
  · simp [hen] at hoff
  · have haudio : s2.audio = { s.audio with buf := s2.audio.buf } := by
      rw [(frameLane_audio hr).1, (frameLane_audio hl).1]
    simp only [State.endFrame]
    rw [haudio]

/-- How many frames of a block are still to be done. -/
def Audio.framesLeft (a : Audio) : Nat := a.frames - a.n

theorem frame_framesLeft_lt {s t : State} (hen : frameEnabled s = true) (h : frame s = .next t) :
    t.audio.framesLeft < s.audio.framesLeft := by
  have hn : s.audio.phase = .inBlock ∧ s.audio.n < s.audio.frames := by simpa [frameEnabled] using hen
  rw [frame_audio hen h]
  simp only [Audio.framesLeft]
  omega

/-- Nothing lengthens a block in progress: a further block is refused (R120). -/
theorem framesLeft_le {p : Params} {e : Event} {s t : State} (ht : performWith p e s = .next t)
    (hin : s.audio.phase ≠ .idle) : t.audio.phase = .idle ∨ t.audio.framesLeft ≤ s.audio.framesLeft := by
  cases eventStep_of_performWith ht with
  | blockStart _ hidle => exact absurd hidle hin
  | blockEnd | reset => exact .inl rfl
  | frame hphase hn hf => exact .inr (frame_framesLeft_lt (by simp [frameEnabled, hphase, hn]) hf).le
  | command _ hc => exact .inr (by rw [hc.frame])
  | init => exact .inr (by rw [selStep3_frame])
  | _ => exact .inr le_rfl

/-- A step of the audio sequencer brings a block in progress nearer to its end, or ends it (R70, R71). -/
theorem framesLeft_lt_of_audio {p : Params} {e : Event} {s t : State} (ht : performWith p e s = .next t)
    (hin : s.audio.phase ≠ .idle) (hagent : e.agent = some .audio) (hen : e.enabled p s = true) :
    t.audio.phase = .idle ∨ t.audio.framesLeft < s.audio.framesLeft := by
  cases e with
  | blockStart => exact absurd (Event.enabled_blockStart_iff.mp hen).1 hin
  | frame => exact .inr (frame_framesLeft_lt hen ht)
  | blockEnd now =>
    obtain ⟨hoff, -⟩ | ⟨-, -, hend⟩ := blockEnd_cases now s
    · exact absurd (hen.symm.trans hoff) (by decide)
    · cases hend.symm.trans ht
      exact .inl rfl
  | command | acqTick | selStep | reset => cases hagent

end Sys2Proof.Machine

namespace Sys2Proof.Proofs

open Sys2Proof Sys2Proof.Machine Sys2Proof.Reference

/-- Settles O4: the run from its 0th state on. -/
theorem everyInterleavingIsARunOfStep : Obligations.EveryInterleavingIsARunOfStep := by
  unfold Obligations.EveryInterleavingIsARunOfStep
  intro offers events states rest k r
  have hrun := r.runSteps_pending rest k 0
  rwa [← List.range_eq_range', Nat.zero_add] at hrun

/-- Settles O36: the remaining FRAMEs are taken, and then the block's end is enabled. -/
theorem startedBlockRunsToItsEnd : Obligations.StartedBlockRunsToItsEnd := by
  unfold Obligations.StartedBlockRunsToItsEnd
  intro s now rest hs hphase hp
  obtain ⟨-, -, -, -, ⟨hle, hbuf, hwet, -⟩, -⟩ := hs
  obtain ⟨t, hrun, hlen, ht⟩ := runSteps_frames (s.audio.frames - s.audio.n) hphase hbuf hwet (by omega) hp
  obtain ⟨hoff, -⟩ | ⟨-, -, hend⟩ := blockEnd_cases now { t with pending := rest }
  · rw [ht] at hoff
    simp [blockEndEnabled, hphase] at hoff
  · have hlast := runSteps_of_pending (s := t) (e := .blockEnd now) (by rw [ht]) hend 0
    refine ⟨_, (hrun 1).trans (hlast.trans (runSteps_zero _)), rfl, ?_⟩
    rw [ht]
    exact ⟨rfl, rfl, rfl, hlen, rfl, rfl, rfl⟩

/-- Settles O20: two micro-steps bring every effect to its init, which succeeds or ends the switch. -/
theorem selectAndFourMicroStepsCompleteTheSwitch : Obligations.SelectAndFourMicroStepsCompleteTheSwitch := by
  unfold Obligations.SelectAndFourMicroStepsCompleteTheSwitch
  intro idx s rest hidx hidle hp
  obtain ⟨e, he⟩ := Option.isSome_iff_exists.mp ((effectOfIndex_isSome_iff idx).mpr hidx)
  have hcode : e.code = idx.toNat := (effectOfIndex_eq_some_iff idx e).mp he
  have hrun := (runSteps_select_to_p3 he hidle hp 2).trans (runSteps_init rfl rfl 1)
  rw [← hcode]
  obtain ⟨hnew, h3⟩ | ⟨hnew, h3⟩ | ⟨hnew, hok, h3⟩ | ⟨hnew, hok, h3⟩ | ⟨hfail, h3⟩ := selStep3_cases Config.params _ <;>
    rw [h3] at hrun
  · obtain rfl : e = .bypass := hnew
    refine ⟨_, hrun.trans (runSteps_publish rfl rfl), rfl, rfl, .inl ⟨rfl, rfl, nofun, nofun, fun h => ?_⟩⟩
    exact absurd h (by decide)
  · refine ⟨_, hrun.trans (runSteps_publish rfl rfl), rfl, rfl, .inl ⟨rfl, rfl, ?_, ?_, fun _ => ⟨rfl, rfl⟩⟩⟩
    all_goals obtain rfl | rfl | rfl : e = .lowpass ∨ e = .highpass ∨ e = .bandpass := hnew <;> nofun
  · obtain rfl : e = .vca := hnew
    refine ⟨_, hrun.trans (runSteps_publish rfl rfl), rfl, rfl, .inl ⟨rfl, rfl, fun _ => hok, nofun, fun h => ?_⟩⟩
    exact absurd h (by decide)
  · obtain rfl : e = .cleanDelay := hnew
    refine ⟨_, hrun.trans (runSteps_publish rfl rfl), rfl, rfl, .inl ⟨rfl, rfl, nofun, fun _ => hok, fun h => ?_⟩⟩
    exact absurd h (by decide)
  · refine ⟨_, hrun.trans (runSteps_selStep_of_idle rfl rfl), rfl, rfl, .inr ⟨?_, rfl, rfl⟩⟩
    obtain ⟨hnew, hbad⟩ | ⟨hnew, hbad⟩ := hfail
    · obtain rfl : e = .vca := hnew
      exact .inl ⟨rfl, hbad⟩
    · obtain rfl : e = .cleanDelay := hnew
      exact .inr ⟨rfl, hbad⟩

/-- Settles O21: each micro-step brings a pending switch nearer to its end, and no other step holds it up. -/
theorem pendingSwitchCompletesUnderWeakFairness : Obligations.PendingSwitchCompletesUnderWeakFairness := by
  unfold Obligations.PendingSwitchCompletesUnderWeakFairness
  intro p offers events states k r
  refine r.reaches_of_measure .dispatcher (goal := fun s => s.dispatcher.selPhase = .idle)
    (μ := fun s => s.dispatcher.selPhase.stepsLeft) (fun j hpending => ?_) (fun e s t ht hpending => ?_)
    (fun e s t ht hpending hagent hen => ?_) k
  · exact (Agent.hasStep_dispatcher p (offers j) (states j)).mpr hpending
  · exact stepsLeft_le ht hpending
  · cases e <;> cases hagent
    exact .inr (selStep_stepsLeft_lt ht hpending)

/-- Settles O37: each step of the audio sequencer brings a block in progress nearer to its end, and no other step holds
it up; the invariant gives it a step until then. -/
theorem startedBlockCompletesUnderWeakFairness : Obligations.StartedBlockCompletesUnderWeakFairness := by
  unfold Obligations.StartedBlockCompletesUnderWeakFairness
  intro p offers events states k r h0
  refine r.reaches_of_measure .audio (goal := fun s => s.audio.phase = .idle) (μ := fun s => s.audio.framesLeft)
    (fun j hin => ?_) (fun e s t => framesLeft_le) (fun e s t => framesLeft_lt_of_audio) k
  obtain ⟨-, -, -, -, ⟨hle, -⟩, -⟩ := r.toIsRun.always State.Inv h0 (fun e s t => performWith_inv) j
  have hphase : (states j).audio.phase = .inBlock := by
    cases h : (states j).audio.phase with
    | idle => exact absurd h hin
    | inBlock => rfl
  exact Agent.hasStep_audio_of_inBlock p (offers j) hphase hle

end Sys2Proof.Proofs
end

section
/-!
PROOFS. The filter's coefficients (R90): the interval arithmetic that shows that no step of the formulas wraps, the
effective mode (R91), FSETP (R89), and the closed lowpass (R98).
-/

namespace Sys2Proof.Machine

open Sys2Proof.Reference

/-! ## Products with a factor in [0, UNITY] -/

/-- Multiplying by a factor in [0, 1.0] does not lengthen a nonnegative value. -/
theorem floorShift_mul_mem {x y : Int} (hx₀ : 0 ≤ x) (hx₁ : x ≤ 8388608) (hy : 0 ≤ y) :
    0 ≤ floorShift (x * y) 23 ∧ floorShift (x * y) 23 ≤ y := by
  have hle : x * y ≤ 8388608 * y := mul_le_mul_of_nonneg_right hx₁ hy
  have hpos : 0 ≤ x * y := mul_nonneg hx₀ hy
  unfold floorShift
  omega

/-- Multiplying by a factor in [0, 1.0) shortens a positive value. -/
theorem floorShift_mul_lt {x y : Int} (hx₁ : x < 8388608) (hy : 0 < y) : floorShift (x * y) 23 < y := by
  have hlt : x * y < 8388608 * y := mul_lt_mul_of_pos_right hx₁ hy
  unfold floorShift
  omega

/-! ## Word arithmetic that does not wrap -/

section NoWrap

variable {x y : Word}

theorem toInt_add_of_mem (h₁ : -2147483648 ≤ x.toInt + y.toInt) (h₂ : x.toInt + y.toInt < 2147483648) :
    (x + y).toInt = x.toInt + y.toInt := by
  rw [toInt_add_eq_wrap, wrap_of_mem h₁ h₂]

theorem toInt_sub_of_mem (h₁ : -2147483648 ≤ x.toInt - y.toInt) (h₂ : x.toInt - y.toInt < 2147483648) :
    (x - y).toInt = x.toInt - y.toInt := by
  rw [toInt_sub_eq_wrap, wrap_of_mem h₁ h₂]

theorem toInt_two_mul_of_mem (h₁ : -2147483648 ≤ 2 * x.toInt) (h₂ : 2 * x.toInt < 2147483648) :
    (2 * x).toInt = 2 * x.toInt := by
  have htwo : (2 : Word).toInt = 2 := by decide
  rw [BitVec.toInt_mul, bmod_eq_wrap, htwo, wrap_of_mem h₁ h₂]

theorem mult_comm (x y : Word) : mult x y = mult y x := by rw [mult, mult, Int.mul_comm]

/-- A product with a factor in [0, 1.0] does not wrap. -/
theorem toInt_mult_of_mem (hx₀ : 0 ≤ x.toInt) (hx₁ : x.toInt ≤ 8388608) (hy : 0 ≤ y.toInt) :
    (mult x y).toInt = floorShift (x.toInt * y.toInt) 23 := by
  have hlt := BitVec.toInt_lt (x := y)
  obtain ⟨hlo, hhi⟩ := floorShift_mul_mem hx₀ hx₁ hy
  rw [toInt_mult]
  exact wrap_of_mem (by omega) (by omega)

theorem toInt_unity : UNITY.toInt = 8388608 := by decide

/-- A 12-bit parameter in S8.23 is 2048 times the parameter (R86). -/
theorem toInt_paramToFixed (v : Value12) : (paramToFixed v).toInt = v.toNat * 2048 := by
  have hv := v.isLt
  have hnat : (paramToFixed v).toNat = v.toNat * 2048 := by
    rw [paramToFixed, BitVec.toNat_shiftLeft, BitVec.toNat_setWidth, Nat.shiftLeft_eq]
    omega
  rw [BitVec.toInt_eq_toNat_of_lt (by omega), hnat, Int.natCast_mul]
  rfl

/-- A parameter in S8.23 lies in [0, 1.0), and its distance to 1.0 is exact (R86, R90). -/
theorem toInt_unity_sub_paramToFixed (v : Value12) : (UNITY - paramToFixed v).toInt = 8388608 - v.toNat * 2048 := by
  have hv := v.isLt
  rw [toInt_sub_of_mem, toInt_unity, toInt_paramToFixed] <;> rw [toInt_unity, toInt_paramToFixed] <;> omega

end NoWrap

/-! ## The coefficients on integers -/

section Exact

variable {c r : Int} (hc₀ : 0 ≤ c) (hc₁ : c ≤ 4095)

include hc₀ hc₁

/-- Coefficient p lies in [0, 1.0) (R90). -/
theorem exactP_mem : 0 ≤ exactP c ∧ exactP c < 8388608 := by
  obtain ⟨hlo, hhi⟩ := floorShift_mul_mem (x := 6710886) (y := c * 2048) (by decide) (by decide) (by omega)
  obtain ⟨h0, -⟩ := floorShift_mul_mem (y := 8388608 - c * 2048) hlo (by omega) (by omega)
  have h1 := floorShift_mul_lt (x := floorShift (6710886 * (c * 2048)) 23) (y := 8388608 - c * 2048) (by omega)
    (by omega)
  unfold exactP
  omega

/-- The output gain lies in [1.0, 4.0] (R90). -/
theorem exactGain_mem (hr₀ : 0 ≤ r) (hr₁ : r ≤ 4095) : 8388608 ≤ exactGain c r ∧ exactGain c r ≤ 4 * 8388608 := by
  have h := floorShift_mul_mem (x := 8388608 - c * 2048) (y := 2 * (r * 2048)) (by omega) (by omega) (by omega)
  rw [mul_comm] at h
  unfold exactGain
  omega

end Exact

/-- The factor 1 − q0 + 5.6·q0² of the feedback coefficient (R90). -/
def feedbackFactor (q0 : Int) : Int := 8388608 - q0 + floorShift (46976204 * floorShift (q0 * q0) 23) 23

/-- 1.0 and half of q0 times the factor: what the resonance is multiplied with (R90). -/
def feedbackScale (q0 : Int) : Int := 8388608 + floorShift (floorShift (q0 * feedbackFactor q0) 23) 1

theorem exactQ_eq (c r : Int) : exactQ c r = floorShift (r * 2048 * feedbackScale (8388608 - c * 2048)) 23 := rfl

section Feedback

variable {q0 : Int} (h₀ : 0 ≤ q0) (h₁ : q0 ≤ 8388608)

include h₀ h₁

/-- The factor is at most 5.6: it is convex in q0, 1.0 at 0 and 5.6 at 1.0. -/
theorem feedbackFactor_mem : 0 ≤ feedbackFactor q0 ∧ feedbackFactor q0 ≤ 46976204 := by
  have hsq := floorShift_mul_mem h₀ h₁ h₀
  unfold feedbackFactor
  generalize floorShift (q0 * q0) 23 = sq at hsq ⊢
  unfold floorShift
  omega

/-- The scale is below 3.8. -/
theorem feedbackScale_mem : 8388608 ≤ feedbackScale q0 ∧ 10 * feedbackScale q0 ≤ 38 * 8388608 := by
  obtain ⟨hf₀, hf₁⟩ := feedbackFactor_mem h₀ h₁
  have hprod := floorShift_mul_mem h₀ h₁ hf₀
  unfold feedbackScale
  generalize floorShift (q0 * feedbackFactor q0) 23 = v at hprod ⊢
  unfold floorShift
  omega

end Feedback

/-- The feedback coefficient lies in [0, 3.8] (R90). -/
theorem exactQ_mem {c r : Int} (hc₀ : 0 ≤ c) (hc₁ : c ≤ 4095) (hr₀ : 0 ≤ r) (hr₁ : r ≤ 4095) :
    0 ≤ exactQ c r ∧ 10 * exactQ c r ≤ 38 * 8388608 := by
  have hscale := feedbackScale_mem (q0 := 8388608 - c * 2048) (by omega) (by omega)
  have h := floorShift_mul_mem (x := r * 2048) (y := feedbackScale (8388608 - c * 2048)) (by omega) (by omega)
    (by omega)
  rw [exactQ_eq]
  omega

theorem toInt_coefGain : (coefGain c r).toInt = exactGain c.toNat r.toNat := by
  have hc := c.isLt
  have hr := r.isLt
  have hres := toInt_paramToFixed r
  have hq0 := toInt_unity_sub_paramToFixed c
  have hunity := toInt_unity
  have hmem := exactGain_mem (c := c.toNat) (r := r.toNat) (by omega) (by omega) (by omega) (by omega)
  have hone : (UNITY + paramToFixed r).toInt = 8388608 + r.toNat * 2048 := by
    rw [toInt_add_of_mem (by omega) (by omega), hunity, hres]
  have htwo : (2 * paramToFixed r).toInt = 2 * (r.toNat * 2048) := by
    rw [toInt_two_mul_of_mem (by omega) (by omega), hres]
  have hterm : (mult (2 * paramToFixed r) (UNITY - paramToFixed c)).toInt =
      floorShift (2 * (r.toNat * 2048) * (8388608 - c.toNat * 2048)) 23 := by
    rw [mult_comm, toInt_mult_of_mem (by omega) (by omega) (by omega), mul_comm, htwo, hq0]
  have hsum : (UNITY + paramToFixed r).toInt + (mult (2 * paramToFixed r) (UNITY - paramToFixed c)).toInt =
      exactGain c.toNat r.toNat := by
    rw [hone, hterm, exactGain]
  rw [coefGain, toInt_add_of_mem (by omega) (by omega), hsum]

/-! ## The coefficients of FSETP -/

section Coefficients

variable (c r : Value12)

theorem toInt_coefP : (coefP c).toInt = exactP c.toNat := by
  have hc := c.isLt
  have hfc := toInt_paramToFixed c
  have hq0 := toInt_unity_sub_paramToFixed c
  have hk08 : K08.toInt = 6710886 := by decide
  have hmem := exactP_mem (c := c.toNat) (by omega) (by omega)
  obtain ⟨hlo, hhi⟩ := floorShift_mul_mem (x := 6710886) (y := c.toNat * 2048) (by decide) (by decide) (by omega)
  have hscaled : (mult K08 (paramToFixed c)).toInt = floorShift (6710886 * (c.toNat * 2048)) 23 := by
    rw [toInt_mult_of_mem (by omega) (by omega) (by omega), hk08, hfc]
  have hterm : (mult (mult K08 (paramToFixed c)) (UNITY - paramToFixed c)).toInt =
      floorShift (floorShift (6710886 * (c.toNat * 2048)) 23 * (8388608 - c.toNat * 2048)) 23 := by
    rw [toInt_mult_of_mem (by omega) (by omega) (by omega), hscaled, hq0]
  have hsum : (paramToFixed c).toInt + (mult (mult K08 (paramToFixed c)) (UNITY - paramToFixed c)).toInt =
      exactP c.toNat := by
    rw [hfc, hterm, exactP]
  rw [coefP, toInt_add_of_mem (by omega) (by omega), hsum]

theorem toInt_coefF : (coefF c).toInt = exactF c.toNat := by
  have hc := c.isLt
  have hp := toInt_coefP c
  have hunity := toInt_unity
  obtain ⟨hlo, hhi⟩ := exactP_mem (c := c.toNat) (by omega) (by omega)
  have htwice : (2 * coefP c).toInt = 2 * exactP c.toNat := by
    rw [toInt_two_mul_of_mem (by omega) (by omega), hp]
  rw [coefF, toInt_sub_of_mem (by omega) (by omega), htwice, toInt_unity, exactF]

/-- No step up to the feedback factor wraps. -/
theorem toInt_feedbackFactor {q0 : Word} (h₀ : 0 ≤ q0.toInt) (h₁ : q0.toInt ≤ 8388608) :
    (UNITY - q0 + mult K56 (mult q0 q0)).toInt = feedbackFactor q0.toInt := by
  have hk56 : K56.toInt = 46976204 := by decide
  have hunity := toInt_unity
  have hmem := feedbackFactor_mem h₀ h₁
  have hsq := floorShift_mul_mem h₀ h₁ h₀
  have hsquare : (mult q0 q0).toInt = floorShift (q0.toInt * q0.toInt) 23 := toInt_mult_of_mem h₀ h₁ h₀
  have hterm : (mult K56 (mult q0 q0)).toInt = floorShift (46976204 * floorShift (q0.toInt * q0.toInt) 23) 23 := by
    rw [mult_comm, toInt_mult_of_mem (by omega) (by omega) (by omega), mul_comm, hk56, hsquare]
  have hdiff : (UNITY - q0).toInt = 8388608 - q0.toInt := by
    rw [toInt_sub_of_mem (by omega) (by omega), hunity]
  have hsum : (UNITY - q0).toInt + (mult K56 (mult q0 q0)).toInt = feedbackFactor q0.toInt := by
    rw [hdiff, hterm, feedbackFactor]
  rw [toInt_add_of_mem (by omega) (by omega), hsum]

/-- No step up to the feedback scale wraps; the arithmetic shift is the floor of the half. -/
theorem toInt_feedbackScale {q0 : Word} (h₀ : 0 ≤ q0.toInt) (h₁ : q0.toInt ≤ 8388608) :
    (UNITY + (mult q0 (UNITY - q0 + mult K56 (mult q0 q0))).sshiftRight 1).toInt = feedbackScale q0.toInt := by
  have hfactor := toInt_feedbackFactor h₀ h₁
  have hmem := feedbackFactor_mem h₀ h₁
  have hscale := feedbackScale_mem h₀ h₁
  have hhalf : ((mult q0 (UNITY - q0 + mult K56 (mult q0 q0))).sshiftRight 1).toInt =
      floorShift (floorShift (q0.toInt * feedbackFactor q0.toInt) 23) 1 := by
    rw [BitVec.toInt_sshiftRight, Int.shiftRight_eq_div_pow, toInt_mult_of_mem h₀ h₁ (by omega), hfactor]
    rfl
  have hsum : UNITY.toInt + ((mult q0 (UNITY - q0 + mult K56 (mult q0 q0))).sshiftRight 1).toInt =
      feedbackScale q0.toInt := by
    rw [toInt_unity, hhalf, feedbackScale]
  rw [toInt_add_of_mem (by omega) (by omega), hsum]

theorem toInt_coefQ : (coefQ c r).toInt = exactQ c.toNat r.toNat := by
  have hc := c.isLt
  have hr := r.isLt
  have hres := toInt_paramToFixed r
  have hq0 := toInt_unity_sub_paramToFixed c
  have hscale := toInt_feedbackScale (q0 := UNITY - paramToFixed c) (by omega) (by omega)
  have hmem := feedbackScale_mem (q0 := (UNITY - paramToFixed c).toInt) (by omega) (by omega)
  rw [coefQ, toInt_mult_of_mem (by omega) (by omega) (by omega), hscale, hres, hq0, exactQ_eq]

end Coefficients

/-! ## The effective mode -/

/-- The modes of R17 are the requests 0 to 4, each read as its number. -/
theorem requestedMode_eq_some_iff (mode : BitVec 3) (m : FilterMode) :
    requestedMode mode = some m ↔ m.code = mode.toNat := by
  cases m <;> revert mode <;> decide

theorem requestedMode_isSome_iff (mode : BitVec 3) : (requestedMode mode).isSome ↔ mode.toNat ≤ 4 := by
  revert mode
  decide

theorem requestedMode_of_ge {mode : BitVec 3} (h : 5 ≤ mode.toNat) : requestedMode mode = none :=
  Option.not_isSome_iff_eq_none.mp fun hsome => absurd ((requestedMode_isSome_iff mode).mp hsome) (by omega)

/-- 0.9 of the range ends between the cutoffs 3686 and 3687 (R91). -/
theorem k09_lt_paramToFixed_iff (c : Value12) : K09.toInt < (paramToFixed c).toInt ↔ 3687 ≤ c.toNat := by
  have hk09 : K09.toInt = 7549747 := by decide
  rw [hk09, toInt_paramToFixed]
  omega

theorem effectiveMode_of_lt {c : Value12} (h : c.toNat < 3687) (m : FilterMode) : effectiveMode c m = m :=
  if_neg fun hk => absurd ((k09_lt_paramToFixed_iff c).mp hk) (by omega)

theorem effectiveMode_of_ge {c : Value12} (h : 3687 ≤ c.toNat) (m : FilterMode) :
    effectiveMode c m = if m.code ≤ 1 then .bypass else .disabled :=
  (if_pos ((k09_lt_paramToFixed_iff c).mpr h)).trans (by cases m <;> rfl)

/-! ## The closed lowpass -/

/-- A lowpass with p = 0 whose taps b1 to b4 are 0: what FINIT and FSETP Lowpass, 0, 0 leave (R98). -/
structure Filter.Closed (fi : Filter) : Prop where
  mode : fi.mode = .lowpass
  p : fi.p = 0
  b1 : fi.b1 = 0
  b2 : fi.b2 = 0
  b3 : fi.b3 = 0
  b4 : fi.b4 = 0

theorem Filter.closed_fsetp_cleared : (Filter.cleared.fsetp 0 0 .lowpass).Closed := by
  constructor <;> decide

theorem zero_mult (x : Word) : mult 0 x = 0 := (mult_comm 0 x).trans (mult_zero x)

/-- With p = 0 a stage whose old tap is 0 passes nothing on (R94 lines 3 to 6). -/
theorem Filter.stage_of_closed {fi : Filter} (hp : fi.p = 0) (x : Word) : fi.stage x 0 = 0 := by
  rw [stage, hp, mult_zero, zero_mult, sub_zero]

/-- A closed lowpass stays closed, takes the input into b0 and answers 0. -/
theorem Filter.Closed.fproc {fi : Filter} (h : fi.Closed) (x : Sample) :
    (fi.fproc x).1.Closed ∧ (fi.fproc x).1.b0 = sampleToFixed x ∧ (fi.fproc x).2 = 0 := by
  obtain ⟨hmode, hp, hb1, hb2, hb3, hb4⟩ := h
  have hb4' : (fi.advance x).b4 = 0 := by
    simp only [advance, hb4, stage_of_closed hp]
    decide
  have hfst : (fi.fproc x).1 = fi.advance x := fi.fproc_fst_of_filtering x (.inl hmode)
  refine ⟨hfst ▸ ⟨hmode, hp, ?_, ?_, ?_, hb4'⟩, ?_, ?_⟩
  · simp only [advance, hb1, stage_of_closed hp]
  · simp only [advance, hb2, stage_of_closed hp]
  · simp only [advance, hb3, stage_of_closed hp]
  · rw [hfst, advance, feedbackInput, hb4, mult_zero, sub_zero]
  · have hsnd : (fi.fproc x).2 = fixedToSample (fi.advance x).lowpassTap := by simp only [Filter.fproc, hmode]
    rw [hsnd, lowpassTap, hb4', mult_zero]
    decide

theorem State.fi_withPending (s : State) (q : List Event) (ch : Chan) :
    State.fi { s with pending := q } ch = s.fi ch := by
  cases ch <;> rfl

section Closed

variable {ch : Chan} {s : State} {rest : List Event}

/-- A pending FPROC of a closed lowpass leaves it closed and answers 0. -/
theorem runSteps_fproc_of_closed {x : Sample} (hs : (s.fi ch).Closed)
    (hp : s.pending = .command (encode (.fproc ch x)) :: rest) :
    ∃ t, (∀ k, runSteps (k + 1) s = runSteps k t) ∧ (t.fi ch).Closed ∧ (t.fi ch).b0 = sampleToFixed x ∧
      t.result = 0 ∧ t.pending = rest := by
  obtain ⟨hclosed, hb0, hzero⟩ := hs.fproc x
  refine ⟨_, fun k => runSteps_command hp (exec_fproc ch x _) k, ?_⟩
  simp only [State.fi_setResult, State.fi_setFi_self, State.fi_withPending, State.setResult_result,
    State.setResult_pending, State.setFi_pending]
  exact ⟨hclosed, hb0, by rw [hzero]; rfl, trivial⟩

/-- The pending FPROCs of a closed lowpass are executed one by one, and leave it closed. -/
theorem runSteps_fprocs_of_closed (xs : List Sample) : ∀ {s : State}, (s.fi ch).Closed →
    s.pending = (xs.map fun y => Event.command (encode (.fproc ch y))) ++ rest →
    ∃ t, (∀ k, runSteps (xs.length + k) s = runSteps k t) ∧ (t.fi ch).Closed ∧ t.pending = rest := by
  induction xs with
  | nil => exact fun hs hp => ⟨_, fun k => by rw [List.length_nil, Nat.zero_add], hs, hp⟩
  | cons x xs ih =>
    intro s hs hp
    obtain ⟨u, hstep, hu, -, -, hup⟩ := runSteps_fproc_of_closed hs hp
    obtain ⟨t, hrun, ht, htp⟩ := ih hu hup
    exact ⟨t, fun k => by rw [List.length_cons, Nat.add_right_comm, hstep, hrun], ht, htp⟩

/-- Pending FINIT and FSETP Lowpass, 0, 0 close the lowpass (R97, R98). -/
theorem runSteps_close (hp : s.pending = .command (encode (.finit ch)) :: .command (encode (.fsetp ch 0 0 0)) :: rest) :
    ∃ t, (∀ k, runSteps (k + 2) s = runSteps k t) ∧ (t.fi ch).Closed ∧ t.pending = rest := by
  have hset (s : State) := exec_fsetp_of_some (mode := 0) (m := .lowpass) rfl ch 0 0 s
  refine ⟨_, fun k => (runSteps_command hp (exec_finit ch _) (k + 1)).trans
    (runSteps_command (State.setFi_pending ..) (hset _) k), ?_, State.setFi_pending ..⟩
  rw [State.fi_setFi_self, State.fi_withPending, State.fi_setFi_self]
  exact Filter.closed_fsetp_cleared

end Closed

end Sys2Proof.Machine

namespace Sys2Proof.Proofs

open Sys2Proof Sys2Proof.Machine Sys2Proof.Reference

/-- Settles O9: each coefficient is the exact integer of its formula, and interval arithmetic bounds it. -/
theorem fsetpStoresExactCoefficients : Obligations.FsetpStoresExactCoefficients := by
  unfold Obligations.FsetpStoresExactCoefficients
  intro ch mode c r s hmode
  obtain ⟨m, hm⟩ := Option.isSome_iff_exists.mp ((requestedMode_isSome_iff mode).mpr hmode)
  have hc := c.isLt
  have hr := r.isLt
  refine ⟨_, exec_fsetp_of_some hm ch c r s, ?_⟩
  simp only [State.fi_setFi_self, State.fi_setFi_other, Filter.fsetp, toInt_coefP, toInt_coefF, toInt_coefQ,
    toInt_coefGain]
  have hp := exactP_mem (c := c.toNat) (by omega) (by omega)
  have hq := exactQ_mem (c := c.toNat) (r := r.toNat) (by omega) (by omega) (by omega) (by omega)
  have hgain := exactGain_mem (c := c.toNat) (r := r.toNat) (by omega) (by omega) (by omega) (by omega)
  refine ⟨trivial, trivial, trivial, trivial, ⟨by omega, by omega⟩, hp, ?_, hq, hgain, trivial, trivial,
    State.setFi_eq ..⟩
  unfold exactF
  omega

/-- Settles O10: the override sets in exactly where the cutoff exceeds 0.9 of the range. -/
theorem fsetpOverridesTheModeNearNyquist : Obligations.FsetpOverridesTheModeNearNyquist := by
  unfold Obligations.FsetpOverridesTheModeNearNyquist
  intro ch mode c r s hmode
  obtain ⟨m, hm⟩ := Option.isSome_iff_exists.mp ((requestedMode_isSome_iff mode).mpr hmode)
  have hcode := (requestedMode_eq_some_iff mode m).mp hm
  refine ⟨_, exec_fsetp_of_some hm ch c r s, ?_⟩
  simp only [State.fi_setFi_self, Filter.fsetp, toInt_coefP, toInt_coefF, toInt_coefQ, toInt_coefGain]
  refine ⟨fun hc h => ?_, fun hc h => ?_, fun hc => ?_, by omega, trivial, trivial, trivial, trivial⟩
  · rw [effectiveMode_of_ge hc, if_pos (by omega)]
  · rw [effectiveMode_of_ge hc, if_neg (by omega)]
  · rw [effectiveMode_of_lt hc, hcode]

/-- Settles O11: the modes 5 to 7 request nothing. -/
theorem fsetpWithAReservedModeIsIgnored : Obligations.FsetpWithAReservedModeIsIgnored := by
  unfold Obligations.FsetpWithAReservedModeIsIgnored
  exact fun ch mode c r s hmode => exec_fsetp_of_none (requestedMode_of_ge hmode) ch c r s

/-- Settles O14: FINIT and FSETP close the lowpass, and no FPROC opens it. -/
theorem closedLowpassAnswersZeroForEver : Obligations.ClosedLowpassAnswersZeroForEver := by
  unfold Obligations.ClosedLowpassAnswersZeroForEver
  intro ch xs x s rest hp
  obtain ⟨s₁, hrun₁, hclosed₁, hp₁⟩ := runSteps_close hp
  obtain ⟨s₂, hrun₂, hclosed₂, hp₂⟩ := runSteps_fprocs_of_closed xs hclosed₁ hp₁
  obtain ⟨t, hrun₃, hclosed, hb0, hzero, hrest⟩ := runSteps_fproc_of_closed hclosed₂ hp₂
  have hrun : runSteps (xs.length + 3) s = .next t :=
    (hrun₁ (xs.length + 1)).trans ((hrun₂ 1).trans ((hrun₃ 0).trans (runSteps_zero t)))
  obtain ⟨-, -, hb1, hb2, hb3, hb4⟩ := hclosed
  exact ⟨t, hrun, hzero, hb1, hb2, hb3, hb4, by rw [hb0, toInt_sampleToFixed], hrest⟩

end Sys2Proof.Proofs
end

section
/-!
PROOFS. Blocks: BLOCK_START and the effects (R60 to R67), the separation of the two lanes (R74), and BLOCK_END (R71,
R72).
-/

namespace Sys2Proof.Machine

open Sys2Proof.Reference

/-! ## Lanes of an interleaved block -/

theorem lane_left_cons (l r : Sample) (rest : List Sample) (n : Nat) :
    lane .left (n + 1) (l :: r :: rest) = l :: lane .left n rest := by
  simp only [lane, List.range_succ_eq_map, List.map_cons, List.map_map]
  rfl

theorem lane_right_cons (l r : Sample) (rest : List Sample) (n : Nat) :
    lane .right (n + 1) (l :: r :: rest) = r :: lane .right n rest := by
  simp only [lane, List.range_succ_eq_map, List.map_cons, List.map_map]
  rfl

/-- The k-th Sample of a lane is element 2k + c of the block (R33). -/
theorem getElem?_lane {xs : List Sample} {n : Nat} (h : xs.length = 2 * n) (ch : Chan) (k : Nat) :
    (lane ch n xs)[k]? = xs[2 * k + laneNumber ch]? := by
  have hlane : laneNumber ch < 2 := by cases ch <;> decide
  by_cases hk : k < n
  · have hlt : 2 * k + laneNumber ch < xs.length := by omega
    simp [lane, hk, List.getElem?_eq_getElem hlt]
  · rw [List.getElem?_eq_none (by simp [lane]; omega), List.getElem?_eq_none (by omega)]

/-- Two blocks of the same length agree on a lane when the lane's elements are the same in both. -/
theorem lane_congr {xs ys : List Sample} {n : Nat} (hx : xs.length = 2 * n) (hy : ys.length = 2 * n) (ch : Chan) :
    lane ch n xs = lane ch n ys ↔ ∀ k : Nat, xs[2 * k + laneNumber ch]? = ys[2 * k + laneNumber ch]? := by
  rw [List.ext_getElem?_iff]
  simp only [getElem?_lane hx, getElem?_lane hy]

/-- A property of lists of n pairs (a block's frames, a byte image's Samples) is proved pair by pair. -/
theorem pairs_induction {α : Type} {P : Nat → List α → Prop} (nil : P 0 [])
    (cons : ∀ n l r rest, rest.length = 2 * n → P n rest → P (n + 1) (l :: r :: rest)) :
    ∀ (n : Nat) (xs : List α), xs.length = 2 * n → P n xs := by
  intro n
  induction n with
  | zero =>
    intro xs h
    obtain rfl := List.eq_nil_of_length_eq_zero h
    exact nil
  | succ n ih =>
    intro xs h
    match xs, h with
    | l :: r :: rest, h =>
      have hrest : rest.length = 2 * n := by simp only [List.length_cons] at h; omega
      exact cons n l r rest hrest (ih rest hrest)

/-! ## The input meters, lane by lane -/

/-- Each input meter is raised by its own lane's Samples in order (R62). -/
theorem meterInputs_inMeter (ch : Chan) (n : Nat) (xs : List Sample) (h : xs.length = 2 * n) :
    ∀ q : Quad (BitVec 16), (meterInputs q xs).get (inMeter ch) =
      (lane ch n xs).foldl raisePeak (q.get (inMeter ch)) := by
  refine pairs_induction (P := fun n xs => ∀ q : Quad (BitVec 16), (meterInputs q xs).get (inMeter ch) =
    (lane ch n xs).foldl raisePeak (q.get (inMeter ch))) (fun q => rfl) (fun n l r rest _ ih q => ?_) n xs h
  rw [meterInputs_cons, ih]
  cases ch
  · rw [lane_left_cons, List.foldl_cons]
    rfl
  · rw [lane_right_cons, List.foldl_cons]
    rfl

/-- A meter raised by a list of Samples holds the largest of its old value and the Samples' magnitudes. -/
theorem foldl_raisePeak (xs : List Sample) : ∀ peak : BitVec 16,
    peak.toNat ≤ (xs.foldl raisePeak peak).toNat ∧
    (∀ x ∈ xs, x.toInt.natAbs ≤ (xs.foldl raisePeak peak).toNat) ∧
    (xs.foldl raisePeak peak = peak ∨ ∃ x ∈ xs, (xs.foldl raisePeak peak).toNat = x.toInt.natAbs) := by
  induction xs with
  | nil => exact fun peak => ⟨le_rfl, nofun, .inl rfl⟩
  | cons x xs ih =>
    intro peak
    obtain ⟨hle, hall, hattained⟩ := ih (raisePeak peak x)
    have hraise : (raisePeak peak x).toNat = max peak.toNat x.toInt.natAbs := raisePeak_toNat peak x
    rw [List.foldl_cons]
    refine ⟨by omega, ?_, ?_⟩
    · simp only [List.forall_mem_cons]
      exact ⟨by omega, hall⟩
    · obtain hsame | ⟨y, hy, hattained⟩ := hattained
      · rw [hsame]
        obtain hpeak | hsample := max_choice peak.toNat x.toInt.natAbs
        · exact .inl (BitVec.eq_of_toNat_eq (hraise.trans hpeak))
        · exact .inr ⟨x, List.mem_cons_self, hraise.trans hsample⟩
      · exact .inr ⟨y, List.mem_cons_of_mem x hy, hattained⟩

/-! ## The effects -/

/-- The three filter effects and the mode each requests (R67). -/
def FilterEffect (e : Effect) (m : FilterMode) : Prop :=
  (e = .lowpass ∧ m = .lowpass) ∨ (e = .highpass ∧ m = .highpass) ∨ (e = .bandpass ∧ m = .bandpass)

section Effects

variable {s : State}

theorem State.runEffect_of_bypass (h : s.dispatcher.active = .bypass) :
    s.runEffect = { s with audio := { s.audio with wet := s.audio.buf } } := by
  simp only [State.runEffect, h]

theorem State.runEffect_of_vca (h : s.dispatcher.active = .vca) : s.runEffect = { s with
    vcaState := Config.vcaNext s.vcaState s.acq.val s.audio.buf
    audio := { s.audio with wet := opaqueBlock (Config.vcaSample s.vcaState s.acq.val s.audio.buf) s.audio.buf } } := by
  simp only [State.runEffect, h]

theorem State.runEffect_of_cleanDelay (h : s.dispatcher.active = .cleanDelay) : s.runEffect = { s with
    delayState := Config.delayNext s.delayState s.acq.val s.audio.buf
    audio := { s.audio with
      wet := opaqueBlock (Config.delaySample s.delayState s.acq.val s.audio.buf) s.audio.buf } } := by
  simp only [State.runEffect, h]

theorem State.runEffect_of_filter {m : FilterMode} (h : FilterEffect s.dispatcher.active m) :
    s.runEffect = s.runFilterEffect m := by
  obtain ⟨h, rfl⟩ | ⟨h, rfl⟩ | ⟨h, rfl⟩ := h <;> simp only [State.runEffect, h]

end Effects

/-- An effect that is not opaque is Bypass or a filter effect (R20). -/
theorem Effect.bypass_or_filter {e : Effect} (hvca : e ≠ .vca) (hdelay : e ≠ .cleanDelay) :
    e = .bypass ∨ ∃ m, FilterEffect e m := by
  cases e with
  | bypass => exact .inl rfl
  | vca => exact absurd rfl hvca
  | cleanDelay => exact absurd rfl hdelay
  | lowpass => exact .inr ⟨.lowpass, .inl ⟨rfl, rfl⟩⟩
  | highpass => exact .inr ⟨.highpass, .inr (.inl ⟨rfl, rfl⟩)⟩
  | bandpass => exact .inr ⟨.bandpass, .inr (.inr ⟨rfl, rfl⟩)⟩

/-- The filter loop runs each lane through its own instance: the order of the lanes within a frame does not matter
(R67). -/
theorem filterBlock_lanes (n : Nat) (xs : List Sample) (h : xs.length = 2 * n) : ∀ fl fr : Filter,
    ((filterBlock fl fr xs).1, lane .left n (filterBlock fl fr xs).2.2) = runLane fl (lane .left n xs) ∧
    ((filterBlock fl fr xs).2.1, lane .right n (filterBlock fl fr xs).2.2) = runLane fr (lane .right n xs) := by
  refine pairs_induction (P := fun n xs => ∀ fl fr : Filter,
    ((filterBlock fl fr xs).1, lane .left n (filterBlock fl fr xs).2.2) = runLane fl (lane .left n xs) ∧
    ((filterBlock fl fr xs).2.1, lane .right n (filterBlock fl fr xs).2.2) = runLane fr (lane .right n xs))
    (fun fl fr => ⟨rfl, rfl⟩) (fun n l r rest _ ih fl fr => ?_) n xs h
  obtain ⟨hl, hr⟩ := ih (fl.fproc l).1 (fr.fproc r).1
  rw [filterBlock_cons, lane_left_cons, lane_left_cons, lane_right_cons, lane_right_cons, runLane, runLane, ← hl, ← hr]
  exact ⟨rfl, rfl⟩

/-- Settings copied from an instance just set are the settings themselves (R89, R96). -/
theorem Filter.fsetp_fdup (src dst : Filter) (c r : Value12) (m : FilterMode) :
    (src.fsetp c r m).fdup dst = dst.fsetp c r m := by
  simp only [fdup, fsetp]

/-- A filter effect sets a lane's instance from the control values and runs it over the lane (R67). -/
theorem State.runFilterEffect_lane (s : State) (m : FilterMode) {n : Nat} (h : s.audio.buf.length = 2 * n) (ch : Chan) :
    ((s.runFilterEffect m).fi ch, lane ch n (s.runFilterEffect m).audio.wet) =
      runLane ((s.fi ch).fsetp (shape s.acq.val.c0) s.acq.val.c1 m) (lane ch n s.audio.buf) := by
  obtain ⟨hl, hr⟩ := filterBlock_lanes n s.audio.buf h (s.fi0.fsetp (shape s.acq.val.c0) s.acq.val.c1 m)
    (s.fi1.fsetp (shape s.acq.val.c0) s.acq.val.c1 m)
  simp only [State.runFilterEffect, Filter.fsetp_fdup]
  cases ch
  · exact hl
  · exact hr

/-- Running an instance over Samples leaves its settings (R94). -/
theorem runLane_settings (xs : List Sample) : ∀ fi : Filter, (runLane fi xs).1.f = fi.f ∧ (runLane fi xs).1.p = fi.p ∧
    (runLane fi xs).1.q = fi.q ∧ (runLane fi xs).1.gain = fi.gain ∧ (runLane fi xs).1.mode = fi.mode := by
  induction xs with
  | nil => exact fun fi => ⟨rfl, rfl, rfl, rfl, rfl⟩
  | cons x xs ih =>
    intro fi
    obtain ⟨hf, hp, hq, hgain, hmode⟩ := fi.fproc_settings x
    obtain ⟨hf', hp', hq', hgain', hmode'⟩ := ih (fi.fproc x).1
    exact ⟨hf'.trans hf, hp'.trans hp, hq'.trans hq, hgain'.trans hgain, hmode'.trans hmode⟩

/-! ## An admitted block -/

section StartBlock

variable {p : Params} {frames : Nat} {xs : List Sample} (now : Word) {s : State}

/-- Two entries are counted at most (R60). -/
theorem LoadMonitor.enter_count (lm : LoadMonitor) : (lm.enter now).count.val = min (lm.count.val + 1) 2 := by
  have hlt := lm.count.isLt
  unfold LoadMonitor.enter
  by_cases h : lm.count.val = 0
  · simp [h]
  · simp [h]
    omega

theorem State.startBlock_wet_length (h : xs.length = 2 * frames) :
    (s.startBlock p frames xs now).audio.wet.length = 2 * frames :=
  State.runEffect_wet_length _ frames h

theorem State.startBlock_wet_of_bypass (h : s.dispatcher.active = .bypass) :
    (s.startBlock p frames xs now).audio.wet = xs := by
  rw [State.startBlock, State.runEffect_of_bypass (s := s.takeBlock p frames xs now) h]
  rfl

theorem State.startBlock_fi_of_bypass (h : s.dispatcher.active = .bypass) (ch : Chan) :
    (s.startBlock p frames xs now).fi ch = s.fi ch := by
  rw [State.startBlock, State.runEffect_of_bypass (s := s.takeBlock p frames xs now) h]
  cases ch <;> rfl

theorem State.startBlock_lane_of_filter {m : FilterMode} (h : FilterEffect s.dispatcher.active m)
    (hlen : xs.length = 2 * frames) (ch : Chan) :
    ((s.startBlock p frames xs now).fi ch, lane ch frames (s.startBlock p frames xs now).audio.wet) =
      runLane ((s.fi ch).fsetp (shape s.acq.val.c0) s.acq.val.c1 m) (lane ch frames xs) := by
  have hrun := State.runFilterEffect_lane (s.takeBlock p frames xs now) m hlen ch
  rw [State.startBlock, State.runEffect_of_filter (s := s.takeBlock p frames xs now) h]
  cases ch <;> exact hrun

end StartBlock

/-! ## The load -/

/-- The difference of two timestamps, as an integer modulo 2^32 (R72). -/
theorem toNat_sub_eq_emod (a b : Word) : ((a - b).toNat : Int) = ((a.toNat : Int) - b.toNat) % 2 ^ 32 := by
  have ha := a.isLt
  have hb := b.isLt
  rw [BitVec.toNat_sub]
  omega

namespace LoadMonitor

/-- The load in percent that the three timestamps give, floored and saturated (R72). -/
def percent (lm : LoadMonitor) : Nat :=
  min (100 * (lm.tsExit - lm.tsEntry).toNat / (lm.tsEntry - lm.tsPStart).toNat) (2 ^ 32 - 1)

variable {lm : LoadMonitor}

/-- With two entries seen and a nonzero period a block exit computes the load (R72). -/
theorem update_of_counted (hcount : lm.count.val = 2) (hperiod : (lm.tsEntry - lm.tsPStart).toNat ≠ 0) :
    lm.update = { lm with load := BitVec.ofNat 32 lm.percent } :=
  if_pos ⟨hcount, hperiod⟩

/-- Otherwise it leaves the load (R72). -/
theorem update_of_not_counted (h : lm.count.val ≠ 2 ∨ (lm.tsEntry - lm.tsPStart).toNat = 0) : lm.update = lm :=
  if_neg fun ⟨hcount, hperiod⟩ => h.elim (absurd hcount) hperiod

theorem update_frame : lm.update = { lm with load := lm.update.load } := by
  by_cases h : lm.count.val = 2 ∧ (lm.tsEntry - lm.tsPStart).toNat ≠ 0
  · rw [update_of_counted h.1 h.2]
  · rw [update_of_not_counted (by rwa [not_and_or, not_not] at h)]

/-- The saturated quotient fits in a word. -/
theorem toNat_load_of_counted (hcount : lm.count.val = 2) (hperiod : (lm.tsEntry - lm.tsPStart).toNat ≠ 0) :
    lm.update.load.toNat = lm.percent := by
  rw [update_of_counted hcount hperiod, BitVec.toNat_ofNat]
  exact Nat.mod_eq_of_lt ((min_le_right _ _).trans_lt (by decide))

end LoadMonitor

/-! ## The lanes never mix -/

/-- An enabled FRAME that completes found both Samples of each lane (R70). -/
theorem frame_reads {s t : State} (hen : frameEnabled s = true) (h : frame s = .next t) (ch : Chan) :
    ∃ wet dry, s.audio.wet[2 * s.audio.n + laneOffset ch]? = some wet ∧
      s.audio.buf[2 * s.audio.n + laneOffset ch]? = some dry := by
  obtain ⟨hoff, -⟩ | ⟨-, -, s1, s2, hl, hr, -⟩ := frame_cases h
  · simp [hen] at hoff
  cases ch with
  | left =>
    obtain ⟨dry, wet, hd, hw, -⟩ := frameLane_next hl
    exact ⟨wet, dry, hw, hd⟩
  | right =>
    obtain ⟨dry, wet, hd, hw, -⟩ := frameLane_next hr
    have hn : s1.audio.n = s.audio.n := by rw [frameLane_frame hl]
    have hwet : s1.audio.wet = s.audio.wet := by rw [frameLane_frame hl]
    rw [State.readBuf, hn, frameLane_buf_of_ne hl (by simp [laneOffset])] at hd
    rw [State.readWet, hn, hwet] at hw
    exact ⟨wet, dry, hw, hd⟩

/-- An enabled FRAME that completes leaves a lane's elements of Buf but the current one (R70). -/
theorem frame_buf_of_ne {s t : State} (h : frame s = .next t) (ch : Chan) {k : Nat} (hk : k ≠ s.audio.n) :
    t.audio.buf[2 * k + laneOffset ch]? = s.audio.buf[2 * k + laneOffset ch]? := by
  have hlane : laneOffset ch < 2 := by cases ch <;> decide
  exact (frame_leaves_others h).1 _ (by omega) (by omega)

section SameLane

variable {p : Params} {ch : Chan} {e e' : Event} {s s' t t' : State}

/-- Where a lane and what is shared agree, the same audio steps are enabled. -/
theorem enabled_of_sameLane (h : SameLane ch s s') (he : SameLaneEvent ch e e') : e.enabled p s = e'.enabled p s' := by
  obtain ⟨rfl, rfl⟩ | ⟨now, rfl, rfl⟩ | ⟨frames, xs, xs', now, rfl, rfl, hlen, -⟩ := he
  · simp only [Event.enabled, frameEnabled, h.phase, h.n, h.frames]
  · simp only [Event.enabled, blockEndEnabled, h.phase, h.n, h.frames]
  · simp only [Event.enabled, blockStartEnabled, h.phase, h.stopFlag, hlen]

/-- FRAME writes a lane from the lane and what is shared (R74). -/
theorem sameLane_frame (h : SameLane ch s s') (hen : frameEnabled s = true) (hen' : frameEnabled s' = true)
    (ht : frame s = .next t) (ht' : frame s' = .next t') : SameLane ch t t' := by
  obtain ⟨wet, dry, hw, hd⟩ := frame_reads hen ht ch
  have hw' := hw
  have hd' := hd
  rw [laneOffset_eq_laneNumber, h.wet, h.n, ← laneOffset_eq_laneNumber] at hw'
  rw [laneOffset_eq_laneNumber, h.buf, h.n, ← laneOffset_eq_laneNumber] at hd'
  obtain ⟨hout, hpeak⟩ := frame_writes hen ht hw hd rfl
  obtain ⟨hout', hpeak'⟩ := frame_writes hen' ht' hw' hd'
    (o := muteApply (mix (wetGain s.audio.prevWet s.audio.currWet s.audio.n s.audio.frames) wet dry) s.mute.gainNum)
    (by rw [h.prevWet, h.currWet, h.n, h.frames, h.mute])
  have haudio := frame_audio hen ht
  have haudio' := frame_audio hen' ht'
  exact {
    filter := by rw [frame_frame ht, frame_frame ht']; cases ch <;> exact h.filter
    active := by rw [frame_frame ht, frame_frame ht']; exact h.active
    phase := by rw [haudio, haudio']; exact h.phase
    frames := by rw [haudio, haudio']; exact h.frames
    n := by rw [haudio, haudio']; exact congrArg (· + 1) h.n
    prevWet := by rw [haudio, haudio']; exact h.prevWet
    currWet := by rw [haudio, haudio']; exact h.currWet
    mute := by rw [frame_mute hen ht, frame_mute hen' ht', h.mute]
    acq := by rw [frame_frame ht, frame_frame ht']; exact h.acq
    stopFlag := by rw [frame_frame ht, frame_frame ht']; exact h.stopFlag
    buf := fun k => by
      rw [← laneOffset_eq_laneNumber]
      by_cases hk : k = s.audio.n
      · subst hk
        rw [hout, h.n, hout', h.n]
      · rw [frame_buf_of_ne ht ch hk, frame_buf_of_ne ht' ch (h.n ▸ hk), laneOffset_eq_laneNumber, h.buf]
    wet := by rw [haudio, haudio']; exact h.wet
    inMeter := by rw [(frame_leaves_others ht).2, (frame_leaves_others ht').2, h.inMeter]
    outMeter := by rw [hpeak, hpeak', h.outMeter] }

/-- An effect that is not opaque runs a lane from the lane and what is shared (R64, R67, R74). -/
theorem effect_of_sameLane {frames : Nat} {xs xs' : List Sample} (now : Word) (h : SameLane ch s s')
    (hvca : s.dispatcher.active ≠ .vca) (hdelay : s.dispatcher.active ≠ .cleanDelay) (hlen : xs.length = 2 * frames)
    (hlen' : xs'.length = 2 * frames) (hlane : lane ch frames xs = lane ch frames xs') :
    (s.startBlock p frames xs now).fi ch = (s'.startBlock p frames xs' now).fi ch ∧
    lane ch frames (s.startBlock p frames xs now).audio.wet =
      lane ch frames (s'.startBlock p frames xs' now).audio.wet := by
  obtain hbypass | ⟨m, hm⟩ := Effect.bypass_or_filter hvca hdelay
  · have hbypass' := h.active ▸ hbypass
    rw [State.startBlock_fi_of_bypass now hbypass, State.startBlock_fi_of_bypass now hbypass',
      State.startBlock_wet_of_bypass now hbypass, State.startBlock_wet_of_bypass now hbypass']
    exact ⟨h.filter, hlane⟩
  · have hrun := State.startBlock_lane_of_filter (p := p) now hm hlen ch
    have hrun' := State.startBlock_lane_of_filter (p := p) now (h.active ▸ hm) hlen' ch
    rw [h.filter, h.acq, hlane] at hrun
    exact Prod.mk.inj (hrun.trans hrun'.symm)

/-- BLOCK_START writes a lane from the lane and what is shared (R74). -/
theorem sameLane_startBlock {frames : Nat} {xs xs' : List Sample} (now : Word) (h : SameLane ch s s')
    (hvca : s.dispatcher.active ≠ .vca) (hdelay : s.dispatcher.active ≠ .cleanDelay) (hlen : xs.length = 2 * frames)
    (hlen' : xs'.length = 2 * frames) (hxs : ∀ k : Nat, xs[2 * k + laneNumber ch]? = xs'[2 * k + laneNumber ch]?) :
    SameLane ch (s.startBlock p frames xs now) (s'.startBlock p frames xs' now) := by
  have hlane := (lane_congr hlen hlen' ch).mpr hxs
  obtain ⟨hfi, hwet⟩ := effect_of_sameLane (p := p) now h hvca hdelay hlen hlen' hlane
  have hwet' := (lane_congr (State.startBlock_wet_length now hlen) (State.startBlock_wet_length now hlen') ch).mp hwet
  have hin : (meterInputs s.peak xs).get (inMeter ch) = (meterInputs s'.peak xs').get (inMeter ch) := by
    rw [meterInputs_inMeter ch frames xs hlen, meterInputs_inMeter ch frames xs' hlen', hlane, h.inMeter]
  have hout : (meterInputs s.peak xs).get (outMeter ch) = (meterInputs s'.peak xs').get (outMeter ch) := by
    rw [meterInputs_outMeter _ hlen, meterInputs_outMeter _ hlen', h.outMeter]
  have ht := s.startBlock_frame p frames xs now
  have ht' := s'.startBlock_frame p frames xs' now
  have hcurr : (s.startBlock p frames xs now).audio.currWet = (s'.startBlock p frames xs' now).audio.currWet := by
    rw [ht, ht', h.acq]
  exact {
    filter := hfi
    active := by rw [ht, ht']; exact h.active
    phase := by rw [ht, ht']
    frames := by rw [ht, ht']
    n := by rw [ht, ht']
    prevWet := by rw [ht, ht']; exact h.prevWet
    currWet := hcurr
    mute := by rw [ht, ht']; exact h.mute
    acq := by rw [ht, ht']; exact h.acq
    stopFlag := by rw [ht, ht']; exact h.stopFlag
    buf := by rw [ht, ht']; exact hxs
    wet := hwet'
    inMeter := by rw [ht, ht']; exact hin
    outMeter := by rw [ht, ht']; exact hout }

end SameLane

end Sys2Proof.Machine

namespace Sys2Proof.Proofs

open Sys2Proof Sys2Proof.Machine Sys2Proof.Reference

/-- Settles O38: the same steps are enabled on both sides, and each writes a lane from the lane and what is shared. -/
theorem lanesNeverMix : Obligations.LanesNeverMix := by
  unfold Obligations.LanesNeverMix
  intro p ch e e' s s' t t' h he hvca hdelay ht ht'
  have hsame := enabled_of_sameLane (p := p) h he
  by_cases hen : e.enabled p s = true
  · have hen' := hsame ▸ hen
    obtain ⟨rfl, rfl⟩ | ⟨now, rfl, rfl⟩ | ⟨frames, xs, xs', now, rfl, rfl, -, hxs⟩ := he
    · exact sameLane_frame h hen hen' ht ht'
    · cases (if_pos hen).symm.trans ht
      cases (if_pos hen').symm.trans ht'
      exact { h with phase := rfl, prevWet := h.currWet }
    · obtain ⟨hidle, hrun, hfits, hlen⟩ := Event.enabled_blockStart_iff.mp hen
      obtain ⟨hidle', hrun', hfits', hlen'⟩ := Event.enabled_blockStart_iff.mp hen'
      cases (blockStart_of_admitted now hidle hrun hfits hlen).symm.trans ht
      cases (blockStart_of_admitted now hidle' hrun' hfits' hlen').symm.trans ht'
      exact sameLane_startBlock now h hvca hdelay hlen hlen' hxs
  · cases (performWith_of_not_enabled hen).symm.trans ht
    cases (performWith_of_not_enabled (hsame ▸ hen)).symm.trans ht'
    exact h

/-- Settles O30: each input meter is raised by its own lane's Samples, and the rest is BLOCK_START's own writes. -/
theorem blockStartTakesAnAdmittedBlock : Obligations.BlockStartTakesAnAdmittedBlock := by
  unfold Obligations.BlockStartTakesAnAdmittedBlock
  intro p frames xs now s hidle hrun hfits hlen
  have hframe := s.startBlock_frame p frames xs now
  have hlm : (s.startBlock p frames xs now).lm = s.lm.enter now := by rw [hframe]
  have hpeak : (s.startBlock p frames xs now).peak = meterInputs s.peak xs := by rw [hframe]
  refine ⟨_, blockStart_of_admitted now hidle hrun hfits hlen, by rw [hlm]; rfl, by rw [hlm, LoadMonitor.enter_count],
    by rw [hframe], State.startBlock_wet_length now hlen, fun ch => ?_, by rw [hframe]⟩
  obtain ⟨hle, hall, hattained⟩ := foldl_raisePeak (lane ch frames xs) (s.peak.get (inMeter ch))
  rw [hpeak, meterInputs_inMeter ch frames xs hlen, meterInputs_outMeter _ hlen]
  refine ⟨hle, fun k x _ hx => hall x ?_, hattained.imp_right fun ⟨x, hx, hmax⟩ => ?_, rfl⟩
  · exact List.mem_of_getElem? ((getElem?_lane hlen ch k).trans hx)
  · obtain ⟨k, hk⟩ := List.mem_iff_getElem?.mp hx
    have hlt : k < (lane ch frames xs).length := (List.getElem?_eq_some_iff.mp hk).1
    exact ⟨k, x, by simpa [lane] using hlt, (getElem?_lane hlen ch k).symm.trans hk, hmax⟩

/-- Settles O32: an opaque effect's writes are its parameter functions. -/
theorem opaqueEffectsWriteOnlyTheirOwnState : Obligations.OpaqueEffectsWriteOnlyTheirOwnState := by
  unfold Obligations.OpaqueEffectsWriteOnlyTheirOwnState
  intro p frames xs now s hidle hrun hfits hlen
  refine ⟨fun hvca => ⟨_, blockStart_of_admitted now hidle hrun hfits hlen, ?_⟩,
    fun hdelay => ⟨_, blockStart_of_admitted now hidle hrun hfits hlen, ?_⟩⟩
  · rw [State.startBlock, State.runEffect_of_vca (s := s.takeBlock p frames xs now) hvca]
    exact ⟨rfl, rfl, opaqueBlock_length _ xs, opaqueBlock_getElem? _ xs⟩
  · rw [State.startBlock, State.runEffect_of_cleanDelay (s := s.takeBlock p frames xs now) hdelay]
    exact ⟨rfl, rfl, opaqueBlock_length _ xs, opaqueBlock_getElem? _ xs⟩

/-- Settles O33: each lane's run keeps the settings, which are the same for both. -/
theorem filterEffectRunsEachLaneThroughItsInstance : Obligations.FilterEffectRunsEachLaneThroughItsInstance := by
  unfold Obligations.FilterEffectRunsEachLaneThroughItsInstance
  intro p frames xs now s m hidle hrun hfits hlen hfilter
  have hl := State.startBlock_lane_of_filter (p := p) now hfilter hlen .left
  have hr := State.startBlock_lane_of_filter (p := p) now hfilter hlen .right
  refine ⟨_, blockStart_of_admitted now hidle hrun hfits hlen, hl, ?_⟩
  rw [Filter.fsetp_fdup]
  refine ⟨hr, ?_⟩
  have h0 := congrArg Prod.fst hl
  have h1 := congrArg Prod.fst hr
  obtain ⟨hf, hp, hq, hgain, hmode⟩ := runLane_settings (lane .left frames xs)
    (s.fi0.fsetp (shape s.acq.val.c0) s.acq.val.c1 m)
  obtain ⟨hf', hp', hq', hgain', hmode'⟩ := runLane_settings (lane .right frames xs)
    (s.fi1.fsetp (shape s.acq.val.c0) s.acq.val.c1 m)
  simp only [State.fi_left, State.fi_right] at h0 h1
  refine ⟨?_, ?_, ?_, ?_, ?_, State.startBlock_wet_length now hlen, ?_⟩
  · rw [h1, h0, hf', hf, Filter.fsetp, Filter.fsetp]
  · rw [h1, h0, hp', hp, Filter.fsetp, Filter.fsetp]
  · rw [h1, h0, hq', hq, Filter.fsetp, Filter.fsetp]
  · rw [h1, h0, hgain', hgain, Filter.fsetp, Filter.fsetp]
  · rw [h1, h0, hmode', hmode, Filter.fsetp, Filter.fsetp]
  · rw [State.startBlock, State.runEffect_of_filter (s := s.takeBlock p frames xs now) hfilter]
    rfl

/-- Settles O35: the two timestamp differences are modulo 2^32 as words and as integers. -/
theorem blockEndDeliversTheBlockAndComputesTheLoad : Obligations.BlockEndDeliversTheBlockAndComputesTheLoad := by
  unfold Obligations.BlockEndDeliversTheBlockAndComputesTheLoad
  intro now s hphase hn
  obtain ⟨hoff, -⟩ | ⟨-, -, hend⟩ := blockEnd_cases now s
  · simp [blockEndEnabled, hphase, hn] at hoff
  refine ⟨_, hend, ?_, ?_⟩
  · rintro _ _ rfl rfl
    rw [← toNat_sub_eq_emod, ← toNat_sub_eq_emod]
    refine ⟨fun hcount hperiod => ?_, fun hstay => ?_⟩
    · have hload := LoadMonitor.toNat_load_of_counted (lm := { s.lm with tsExit := now }) hcount
        (by exact_mod_cast hperiod)
      exact (congrArg Nat.cast hload).trans (by rw [LoadMonitor.percent]; push_cast; rfl)
    · have hstays := LoadMonitor.update_of_not_counted (lm := { s.lm with tsExit := now })
        (hstay.imp_right fun h => by exact_mod_cast h)
      exact (congrArg LoadMonitor.load hstays :)
  · rw [LoadMonitor.update_frame]

end Sys2Proof.Proofs
end

section
/-!
PROOFS. Sample arithmetic (the mute gain R102, the mix R69), the length of a mute ramp (R104), the settling of the
smoothing (R108), and the byte image of a block (R34, R35).
-/

namespace Sys2Proof.Machine

open Sys2Proof.Reference

/-! ## The muted and the mixed Sample -/

/-- A Sample is in the range of R7. -/
theorem sample_mem (v : Sample) : -32768 ≤ v.toInt ∧ v.toInt ≤ 32767 := by
  have h₁ := BitVec.le_toInt v
  have h₂ := BitVec.toInt_lt (x := v)
  norm_num at h₁ h₂
  omega

/-- Scaling by g/512 ≤ 1 and flooring stays between the value and 0. -/
theorem floorShift_mul_gain_mem (v : Int) {g : Nat} (hg : g ≤ 512) :
    min v 0 ≤ floorShift (v * g) 9 ∧ floorShift (v * g) 9 ≤ max v 0 := by
  unfold floorShift
  obtain hv | hv := le_total 0 v
  · have h₀ : 0 ≤ v * g := by positivity
    have h₁ : v * g ≤ v * 512 := mul_le_mul_of_nonneg_left (by exact_mod_cast hg) hv
    omega
  · have h₀ : v * g ≤ 0 := mul_nonpos_of_nonpos_of_nonneg hv (Int.natCast_nonneg g)
    have h₁ : v * 512 ≤ v * g := mul_le_mul_of_nonpos_left (by exact_mod_cast hg) hv
    omega

/-- The muted Sample is the floored product: it fits (R102). -/
theorem toInt_muteApply (v : Sample) {g : Nat} (hg : g ≤ 512) : (muteApply v g).toInt = floorShift (v.toInt * g) 9 := by
  have hv := sample_mem v
  have hmem := floorShift_mul_gain_mem v.toInt hg
  rw [muteApply, asr_eq_floor]
  change (BitVec.ofInt 16 (floorShift (v.toInt * g) 9)).toInt = _
  exact toInt_ofInt_of_mem (by decide) (by norm_num; omega) (by norm_num; omega)

/-- The weighted sum of two Samples, weights w and 4095 − w. -/
theorem mixSum_mem {w : Int} (h₀ : 0 ≤ w) (h₁ : w ≤ 4095) (wet dry : Sample) :
    -32768 * 4095 ≤ w * wet.toInt + (4095 - w) * dry.toInt ∧
    w * wet.toInt + (4095 - w) * dry.toInt ≤ 32767 * 4095 := by
  obtain ⟨hwet₀, hwet₁⟩ := sample_mem wet
  obtain ⟨hdry₀, hdry₁⟩ := sample_mem dry
  have hdry : 0 ≤ 4095 - w := by omega
  have := mul_le_mul_of_nonneg_left hwet₀ h₀
  have := mul_le_mul_of_nonneg_left hwet₁ h₀
  have := mul_le_mul_of_nonneg_left hdry₀ hdry
  have := mul_le_mul_of_nonneg_left hdry₁ hdry
  omega

/-- The mixed Sample is the floored weighted sum: it never saturates (R69). -/
theorem toInt_mix {w : Int} (h₀ : 0 ≤ w) (h₁ : w ≤ 4095) (wet dry : Sample) :
    (mix w wet dry).toInt = floorShift (w * wet.toInt + (4095 - w) * dry.toInt) 12 := by
  have hmem := mixSum_mem h₀ h₁ wet dry
  rw [mix, toInt_sat16, asr_eq_floor, floorShift]
  exact clamp_of_mem (by omega) (by omega)

/-! ## The length of a mute ramp -/

/-- The mute machine k enabled FRAMEs after a ramp to Muted began (R103). -/
def muteRampDown (k : Nat) : Mute :=
  if k < 512 then { state := .rampToMute, count := BitVec.ofNat 10 (512 - k) } else { state := .muted, count := 0 }

/-- The mute machine k enabled FRAMEs after a ramp to PassThrough began (R103). -/
def muteRampUp (k : Nat) : Mute :=
  if k < 512 then { state := .rampToUnmute, count := BitVec.ofNat 10 k } else { state := .passThrough, count := 512 }

theorem advance_muteRampDown (k : Nat) : (muteRampDown k).advance = muteRampDown (k + 1) := by
  unfold muteRampDown
  by_cases hk : k < 512
  · have hcount : BitVec.ofNat 10 (512 - k) - 1 = BitVec.ofNat 10 (512 - (k + 1)) := by bv_omega
    rw [if_pos hk, Mute.advance_of_rampToMute rfl, hcount]
    by_cases hlast : k + 1 < 512
    · have hne : BitVec.ofNat 10 (512 - (k + 1)) ≠ 0 := by bv_omega
      rw [if_pos hlast, if_neg hne]
    · obtain rfl : k = 511 := by omega
      rfl
  · rw [if_neg hk, if_neg (by omega)]
    rfl

theorem advance_muteRampUp (k : Nat) : (muteRampUp k).advance = muteRampUp (k + 1) := by
  unfold muteRampUp
  by_cases hk : k < 512
  · have hcount : BitVec.ofNat 10 k + 1 = BitVec.ofNat 10 (k + 1) := by bv_omega
    rw [if_pos hk, Mute.advance_of_rampToUnmute rfl, hcount]
    by_cases hlast : k + 1 < 512
    · have hne : BitVec.ofNat 10 (k + 1) ≠ 512 := by bv_omega
      rw [if_pos hlast, if_neg hne]
    · obtain rfl : k = 511 := by omega
      rfl
  · rw [if_neg hk, if_neg (by omega)]
    rfl

/-- An event that is no RESET and no MUTE writes the mute machine only as an enabled FRAME (R103). -/
theorem mute_of_leavesMuteAlone {e : Event} {s t : State} (he : LeavesMuteAlone e) (ht : perform e s = .next t) :
    t.mute = if e = .frame ∧ frameEnabled s = true then s.mute.advance else s.mute := by
  obtain ⟨hreset, hmute⟩ := he
  split_ifs with hframe
  · obtain ⟨rfl, hen⟩ := hframe
    exact frame_mute hen ht
  · obtain hsame | ⟨rfl, hen, -⟩ | ⟨w, on, rfl, hw⟩ := (eventStep_of_performWith ht).mute hreset
    · exact hsame
    · exact absurd ⟨rfl, hen⟩ hframe
    · exact absurd hw (hmute w on rfl)

/-- Along a run without RESET and MUTE the mute machine depends on the number of enabled FRAMEs only. -/
theorem mute_of_runCountingFrames {ramp : Nat → Mute} (hramp : ∀ k, (ramp k).advance = ramp (k + 1)) (es : List Event) :
    ∀ {s t : State} {c k : Nat}, (∀ e ∈ es, LeavesMuteAlone e) → runCountingFrames es s c = some (t, k) →
      s.mute = ramp c → t.mute = ramp k := by
  induction es with
  | nil =>
    intro s t c k _ hrun hs
    obtain ⟨rfl, rfl⟩ := Prod.mk.inj (Option.some.inj hrun)
    exact hs
  | cons e es ih =>
    intro s t c k hes hrun hs
    obtain ⟨he, hes⟩ := List.forall_mem_cons.mp hes
    rw [runCountingFrames] at hrun
    cases hu : perform e s with
    | next u =>
      rw [hu] at hrun
      refine ih hes hrun ?_
      rw [mute_of_leavesMuteAlone he hu, hs]
      split_ifs
      · exact hramp c
      · rfl
    | fault r => simp [hu] at hrun
    | refused r => simp [hu] at hrun

/-! ## Smoothing -/

/-- Where the distance to the target is in the range of a word, an update moves by the floored twentieth of it, and
nothing wraps (R108). -/
theorem toInt_smooth_of_mem {st norm : Word} (h₁ : -2147483648 ≤ norm.toInt - st.toInt)
    (h₂ : norm.toInt - st.toInt < 2147483648) :
    (smooth st norm).toInt = st.toInt + floorShift ((norm.toInt - st.toInt) * 419430) 23 := by
  have hst := And.intro (BitVec.le_toInt st) (BitVec.toInt_lt (x := st))
  have hnorm := And.intro (BitVec.le_toInt norm) (BitVec.toInt_lt (x := norm))
  have hmem : min (norm.toInt - st.toInt) 0 ≤ floorShift ((norm.toInt - st.toInt) * 419430) 23 ∧
      floorShift ((norm.toInt - st.toInt) * 419430) 23 ≤ max (norm.toInt - st.toInt) 0 := by
    unfold floorShift
    omega
  rw [toInt_smooth, wrap_of_mem h₁ h₂, mulFixed, wrap_of_mem (v := floorShift _ _) (by omega) (by omega)]
  exact wrap_of_mem (by omega) (by omega)

section Smoothing

variable {st norm : Word}

theorem smooth_of_near (h₁ : st.toInt ≤ norm.toInt) (h₂ : norm.toInt - st.toInt ≤ 20) : smooth st norm = st := by
  apply BitVec.eq_of_toInt_eq
  rw [toInt_smooth_of_mem (by omega) (by omega), floorShift]
  omega

theorem smooth_of_below (h₁ : 21 ≤ norm.toInt - st.toInt) (h₂ : norm.toInt - st.toInt < 2147483648) :
    st.toInt < (smooth st norm).toInt ∧ (smooth st norm).toInt ≤ norm.toInt := by
  rw [toInt_smooth_of_mem (by omega) h₂, floorShift]
  omega

theorem smooth_of_above (h₁ : norm.toInt < st.toInt) (h₂ : st.toInt - norm.toInt ≤ 2147483648) :
    (smooth st norm).toInt ≤ st.toInt - 1 ∧ norm.toInt ≤ (smooth st norm).toInt := by
  rw [toInt_smooth_of_mem (by omega) (by omega), floorShift]
  omega

/-- From above the target is reached: the distance falls with every update. -/
theorem exists_iterate_smooth_eq (h₁ : norm.toInt ≤ st.toInt) (h₂ : st.toInt - norm.toInt ≤ 2147483648) :
    ∃ k : Nat, (fun x => smooth x norm)^[k] st = norm := by
  induction hd : (st.toInt - norm.toInt).toNat using Nat.strong_induction_on generalizing st with
  | _ d ih =>
    obtain heq | hlt := h₁.eq_or_lt
    · exact ⟨0, (BitVec.eq_of_toInt_eq heq).symm⟩
    · obtain ⟨hdown, hstay⟩ := smooth_of_above hlt h₂
      obtain ⟨k, hk⟩ := ih _ (by omega) hstay (by omega) rfl
      exact ⟨k + 1, hk⟩

end Smoothing

/-! ## The byte image of a block -/

theorem bytesOfBlock_cons (x : Sample) (xs : List Sample) :
    bytesOfBlock (x :: xs) = x.extractLsb' 0 8 :: x.extractLsb' 8 8 :: bytesOfBlock xs := rfl

theorem samplesOfBytes_cons (lo hi : BitVec 8) (bytes : List (BitVec 8)) :
    samplesOfBytes (lo :: hi :: bytes) = (hi ++ lo) :: samplesOfBytes bytes := rfl

/-- A Sample is its two bytes, the high one above the low one (R34). -/
theorem append_bytes_eq (x : Sample) : x.extractLsb' 8 8 ++ x.extractLsb' 0 8 = x := by
  rw [BitVec.extractLsb'_append_extractLsb'_eq_extractLsb' (by decide)]
  exact BitVec.extractLsb'_eq_self

/-- The two bytes of a composed Sample are the ones it was composed of. -/
theorem bytesOfSample_append (lo hi : BitVec 8) : bytesOfSample (hi ++ lo) = [lo, hi] := by
  have hlo : (hi ++ lo).extractLsb' 0 8 = lo := BitVec.extractLsb'_append_eq_right
  have hhi : (hi ++ lo).extractLsb' 8 8 = hi := BitVec.extractLsb'_append_eq_left
  exact congrArg₂ (fun a b => [a, b]) hlo hhi

/-- A block is read back from its byte image (R34). -/
theorem samplesOfBytes_bytesOfBlock (xs : List Sample) : samplesOfBytes (bytesOfBlock xs) = xs := by
  induction xs with
  | nil => rfl
  | cons x xs ih => rw [bytesOfBlock_cons, samplesOfBytes_cons, append_bytes_eq, ih]

theorem bytesOfBlock_length (xs : List Sample) : (bytesOfBlock xs).length = 2 * xs.length := by
  induction xs with
  | nil => rfl
  | cons x xs ih =>
    rw [bytesOfBlock_cons, List.length_cons, List.length_cons, List.length_cons, ih]
    omega

/-- Sample i stands at the offsets 2i and 2i + 1, low byte first (R34). -/
theorem bytesOfBlock_getElem? (xs : List Sample) : ∀ {i : Nat} {x : Sample}, xs[i]? = some x →
    (bytesOfBlock xs)[2 * i]? = some (x.extractLsb' 0 8) ∧
    (bytesOfBlock xs)[2 * i + 1]? = some (x.extractLsb' 8 8) := by
  induction xs with
  | nil => exact nofun
  | cons y xs ih =>
    intro i x hx
    cases i with
    | zero =>
      obtain rfl := Option.some.inj hx
      exact ⟨rfl, rfl⟩
    | succ i => exact ih hx

/-- Bytes in pairs are the image of the Samples they make up (R35). -/
theorem bytesOfBlock_samplesOfBytes (n : Nat) (bytes : List (BitVec 8)) (h : bytes.length = 2 * n) :
    (samplesOfBytes bytes).length = n ∧ bytesOfBlock (samplesOfBytes bytes) = bytes := by
  refine pairs_induction (P := fun n bytes => (samplesOfBytes bytes).length = n ∧
    bytesOfBlock (samplesOfBytes bytes) = bytes) ⟨rfl, rfl⟩ (fun n lo hi bytes _ ih => ?_) n bytes h
  obtain ⟨hlen, hbytes⟩ := ih
  rw [samplesOfBytes_cons]
  refine ⟨by rw [List.length_cons, hlen], ?_⟩
  change bytesOfSample (hi ++ lo) ++ bytesOfBlock (samplesOfBytes bytes) = _
  rw [bytesOfSample_append, hbytes]
  rfl

end Sys2Proof.Machine

namespace Sys2Proof.Proofs

open Sys2Proof Sys2Proof.Machine Sys2Proof.Reference

/-- Settles O23: the product is scaled by a factor of at most 1 and floored. -/
theorem muteApplyFloorsTheScaledSample : Obligations.MuteApplyFloorsTheScaledSample := by
  unfold Obligations.MuteApplyFloorsTheScaledSample
  intro v g hg
  have hmem := floorShift_mul_gain_mem v.toInt hg
  rw [← toInt_muteApply v hg] at hmem
  refine ⟨toInt_muteApply v hg, by omega, BitVec.eq_of_toInt_eq ?_, BitVec.eq_of_toInt_eq ?_⟩
  · rw [toInt_muteApply v le_rfl, mul_comm]
    exact floorShift_pow_mul v.toInt 9
  · rw [toInt_muteApply v (Nat.zero_le _), Nat.cast_zero, mul_zero]
    rfl

/-- Settles O27: the weights add up to 4095, so the sum is too small to saturate. -/
theorem mixFloorsAndNeverSaturates : Obligations.MixFloorsAndNeverSaturates := by
  unfold Obligations.MixFloorsAndNeverSaturates
  intro w wet dry h₀ h₁
  have hmem := mixSum_mem h₀ h₁ wet dry
  rw [toInt_mix h₀ h₁, floorShift]
  exact ⟨rfl, by omega, by omega⟩

/-- Settles O31: Bypass hands the block on, and equal Samples share the weight 4095. -/
theorem bypassEffectCopiesTheBlock : Obligations.BypassEffectCopiesTheBlock := by
  unfold Obligations.BypassEffectCopiesTheBlock
  refine ⟨fun p frames xs now s hidle hrun hfits hlen hbypass =>
    ⟨_, blockStart_of_admitted now hidle hrun hfits hlen, State.startBlock_wet_of_bypass now hbypass, ?_⟩,
    fun w x h₀ h₁ => ?_⟩
  · rw [State.startBlock, State.runEffect_of_bypass (s := s.takeBlock p frames xs now) hbypass]
    rfl
  · rw [toInt_mix h₀ h₁, ← add_mul, add_sub_cancel]

/-- Settles O25: along the run the mute machine is that of the ramp after the counted frames. -/
theorem muteRampTakesExactly512Frames : Obligations.MuteRampTakesExactly512Frames := by
  unfold Obligations.MuteRampTakesExactly512Frames
  intro es s t k hes hrun
  exact ⟨fun hs => mute_of_runCountingFrames advance_muteRampDown es hes hrun hs,
    fun hs => mute_of_runCountingFrames advance_muteRampUp es hes hrun hs⟩

/-- Settles O41: an update moves by the floored twentieth of the distance: by 0 up to 20, down by at least 1 above. -/
theorem smoothingSettlesAtTheTargetFromAbove : Obligations.SmoothingSettlesAtTheTargetFromAbove := by
  unfold Obligations.SmoothingSettlesAtTheTargetFromAbove
  exact fun norm => ⟨fun st => smooth_of_near, fun st => smooth_of_below, fun st => smooth_of_above,
    fun st => exists_iterate_smooth_eq⟩

/-- Settles O58: Sample by Sample in one direction, byte pair by byte pair in the other. -/
theorem byteImageIsLittleEndianAndReadsBack : Obligations.ByteImageIsLittleEndianAndReadsBack := by
  unfold Obligations.ByteImageIsLittleEndianAndReadsBack
  refine ⟨fun xs => ⟨samplesOfBytes_bytesOfBlock xs, bytesOfBlock_length xs, fun i x hx => ?_⟩,
    fun frames bytes now hlen => if_neg hlen, fun frames bytes now hlen => ?_⟩
  · have hlow : x.extractLsb' 0 8 = BitVec.ofNat 8 x.toNat := rfl
    have hhigh : x.extractLsb' 8 8 = BitVec.ofNat 8 (x.toNat / 256) := by
      rw [← Nat.shiftRight_eq_div_pow x.toNat 8]
      rfl
    rw [← hlow, ← hhigh]
    exact bytesOfBlock_getElem? xs hx
  · obtain ⟨hsamples, hbytes⟩ := bytesOfBlock_samplesOfBytes (2 * frames) bytes (by omega)
    exact ⟨_, if_pos hlen, hsamples, hbytes⟩

/-- Settles O59: line by line, by running the assembler. -/
theorem pseudoInstructionsAssembleToTheirWords : Obligations.PseudoInstructionsAssembleToTheirWords := by
  unfold Obligations.PseudoInstructionsAssembleToTheirWords
  decide

end Sys2Proof.Proofs
end
